-- ==== Sys2Proof/Word.lean ====
section
/-! DEFINITION. Word.lean: the bit-vector names of the model and the fixed sizes of the manual. Everything that reads,
writes or converts them stands in Sys2Proof/Machine. -/

namespace Sys2Proof

/-- One byte. -/
abbrev Byte := BitVec 8

/-- The 128 bytes of the longest M-link transaction (16 beats of 8 bytes, R176), byte `i` in bits `8i` to `8i + 7`. -/
abbrev Chunk := BitVec 1024

/-- 1 MiB, the alignment of every base (R150). -/
abbrev mib : Nat := 1048576

/-- 2^31, the end of the frame memory (R151, R167). -/
abbrev memoryEnd : Nat := 2147483648

end Sys2Proof
end

