-- ==== Sys2Proof/Syntax.lean ====
section
/-! DEFINITION. Syntax.lean: the commands of the part, one constructor per row of spec/opcode_table.json, and the data
they carry. The rows are of three kinds: the RESET line, requests that arrive on the P-link, and what happens on the
M-link (a grant, or the answer of a transaction in flight). -/

namespace Sys2Proof

/-- A write beat (R165): 8 bytes, byte `k` in bits `8k` to `8k + 7`, and one strobe per byte. -/
structure Beat where
  data : BitVec 64
  strobes : BitVec 8
deriving DecidableEq, Repr

/-- The one response that ends a request or a transaction (R166, R176). -/
inductive Response where
  | ok
  | error
deriving DecidableEq, Repr

/-- What a command-word burst carries beside its code (R144): the arg, the event clear word in the same beat with its
own strobes (R190), and the further beats of the burst, which may write any other plan page bytes. -/
structure CommandBurst where
  arg : BitVec 16
  clear : BitVec 32 := 0
  clearStrobes : BitVec 4 := 0
  more : List Beat := []
deriving DecidableEq, Repr

/-- The commands. A P-link row carries the request as the processor issues it; what the part does with it is decided by
the Window Decoder (R165 to R172). Plan and report page rows name the offset in the page, the others the address.
An M-link answer row names, by its place in the list of transactions in flight, the transaction that is answered,
and carries the response and the read data. -/
inductive Instr where
  /-- RESET_LINE_ASSERT: RST_N goes low (R179). -/
  | resetLineAssert
  /-- RESET_LINE_RELEASE: RST_N goes high with the straps PSEL1 and PSEL0 at these levels (R193). -/
  | resetLineRelease (psel1 psel0 : Bool)
  /-- PASS_THROUGH_READ: a read request at an address (R174). -/
  | passThroughRead (addr : BitVec 32) (beats : Nat)
  /-- PASS_THROUGH_WRITE: a write request at an address (R174). -/
  | passThroughWrite (addr : BitVec 32) (beats : List Beat)
  /-- PASS_THROUGH_END: the answer to the transaction of a pass-through or plan request (R174). -/
  | passThroughEnd (index : Nat) (resp : Response) (data : Chunk)
  /-- PLAN_WRITE: a write request at an offset of the plan page (R180). -/
  | planWrite (offset : BitVec 12) (beats : List Beat)
  /-- EVENT_CLEAR_WORD: a one-beat plan write of the event clear word (R190). -/
  | eventClearWord (word : BitVec 32) (strobes : BitVec 4)
  /-- EVENT_LEVELS: a one-beat plan write of the event levels field (R189). -/
  | eventLevels (levels : BitVec 32) (strobes : BitVec 4)
  /-- CLASS_WRITE: a write request at an offset of the class window (R6), counted from plan page offset 0x800. -/
  | classWrite (offset : BitVec 11) (beats : List Beat)
  /-- START: code 0x0001 (R152). -/
  | start (burst : CommandBurst)
  /-- END: code 0x0002 (R156). -/
  | endRun (burst : CommandBurst)
  /-- CHECKPOINT: code 0x0003 (R158). -/
  | checkpoint (burst : CommandBurst)
  /-- RESUME: code 0x0004 (R160). -/
  | resume (burst : CommandBurst)
  /-- COMMIT_DARK: code 0x0010 (R56). -/
  | commitDark (burst : CommandBurst)
  /-- DROP_DARK: code 0x0011 (R65). -/
  | dropDark (burst : CommandBurst)
  /-- ADOPT_LIBRARY: code 0x0012 (R66). -/
  | adoptLibrary (burst : CommandBurst)
  /-- ABORT: code 0x00FF (R163, R164). -/
  | abort (burst : CommandBurst)
  /-- BAD_COMMAND: a command word whose code names no command (R147). -/
  | badCommand (code : BitVec 16) (burst : CommandBurst)
  /-- HEADER_WRITE: a write request to the header page of the capture window (R8). -/
  | headerWrite (addr : BitVec 32) (beats : List Beat)
  /-- CAPTURE_WRITE: a write request to the image rows of the capture window (R11). -/
  | captureWrite (addr : BitVec 32) (beats : List Beat)
  /-- DARK_FETCH_END: the answer to a dark fetch, 64 bytes (R50). -/
  | darkFetchEnd (index : Nat) (resp : Response) (data : BitVec 512)
  /-- SECTOR_FILL_END: the answer to a fill read (R118). -/
  | sectorFillEnd (index : Nat) (resp : Response) (data : Chunk)
  /-- EVICTION_WRITEBACK_END: the answer to a write of an eviction writeback (R120). -/
  | evictionWritebackEnd (index : Nat) (resp : Response)
  /-- FLUSH_WRITEBACK_END: the answer to a write of a flush writeback (R123). -/
  | flushWritebackEnd (index : Nat) (resp : Response)
  /-- CONTEXT_WRITE_END: the answer to a write of the run context (R155). -/
  | contextWriteEnd (index : Nat) (resp : Response)
  /-- CONTEXT_READ_END: the answer to a read of RESUME (R160). -/
  | contextReadEnd (index : Nat) (resp : Response) (data : Chunk)
  /-- COMMIT_RECORD_READ_END: the answer to a record read of COMMIT_DARK (R59). -/
  | commitRecordReadEnd (index : Nat) (resp : Response) (data : Chunk)
  /-- PLANE_WRITE_END: the answer to a plane write of COMMIT_DARK (R58). -/
  | planeWriteEnd (index : Nat) (resp : Response)
  /-- LIBRARY_WRITE_END: the answer to the library record write (R64). -/
  | libraryWriteEnd (index : Nat) (resp : Response)
  /-- LIBRARY_READ_END: the answer to the library record read (R66). -/
  | libraryReadEnd (index : Nat) (resp : Response) (data : Chunk)
  /-- M_LINK_GRANT: the M-link Arbiter makes a grant (R177). -/
  | mLinkGrant
  /-- CAPTURE_READ: a read request to the capture window (R172). -/
  | captureRead (addr : BitVec 32) (beats : Nat)
  /-- RESULT_READ: a read request to a result view (R129). -/
  | resultRead (addr : BitVec 32) (beats : Nat)
  /-- RESULT_WRITE: a write request to a result view (R172). -/
  | resultWrite (addr : BitVec 32) (beats : List Beat)
  /-- REPORT_READ: a read request at an offset of the report page (R183). -/
  | reportRead (offset : BitVec 12) (beats : Nat)
  /-- REPORT_WRITE: a write request at an offset of the report page (R172). -/
  | reportWrite (offset : BitVec 12) (beats : List Beat)
deriving DecidableEq, Repr

end Sys2Proof
end

