-- ==== Sys2Proof/Decode.lean ====
section
/-! DEFINITION. Decode.lean: the part fetches no words, and no row of spec/opcode_table.json gives bits. -/

namespace Sys2Proof

/-- The command a word of the table's bits spells: none, since no row gives bits. -/
def decodeTableWord (_nbits _w : Nat) : Option Instr := none

end Sys2Proof
end

