-- ==== Sys2Proof/Config.lean ====
section
/-! DEFINITION. Config.lean: the values the manual leaves open. Each is a constant without a body, so no proof can see
what it is: a statement that mentions one holds for every value of it. -/

namespace Sys2Proof.Config

/-- DESIGN CHOICE (log 8): what bits 18 to 31 of the event levels field show in the report page, as a function of the
32 bits last written. R189 says of these bits only that they are not read. -/
opaque unreadLevelBits : BitVec 32 → BitVec 14

/-- DESIGN CHOICE (log 9): the temperature COMMIT_DARK gives its slot when half-even(temperature sum / folded count)
is outside s16, which only a run context written by other means can bring about (R62 states no result there). -/
opaque meanTemperatureOutside : Int → BitVec 16

/-- DESIGN CHOICE (log 10): the temperature sum after an addition whose exact result is outside s64, which only a run
context written by other means can bring about (R55 states no result there). -/
opaque temperatureSumOutside : Int → BitVec 64

end Sys2Proof.Config
end

