-- ==== Sys2Proof/Machine/State.lean ====
section
/-! DEFINITION. Machine/State.lean: the state of the NX-40 as plain data, block by block, and its value after the RESET
line. Tables indexed by number (sectors, slots, history, counters, marks, classes) are lists of (index, value) pairs in
rising order without entries equal to what an unlisted index reads as (log 28); Machine/Ops.lean reads and writes them. -/

namespace Sys2Proof.Machine

/-! ## Codes -/

/-- The treatment of a tile (section 1.3). -/
inductive TileClass where
  | ground
  | track
  | trail
  | exclude
deriving DecidableEq, Repr

/-- The run state (R148). -/
inductive RunState where
  | idle
  | running
  | ending
  | ended
deriving DecidableEq, Repr

/-- The run mode (R148). -/
inductive RunMode where
  | light
  | dark
deriving DecidableEq, Repr

/-- The lock state (R25). -/
inductive Lock where
  | hunt
  | probe
  | locked
deriving DecidableEq, Repr

/-- The verdict given to a completed header (R26 to R30). -/
inductive Disposition where
  | folded
  | skipped
  | duplicate
  | stale
  | bad
  | foreign
  | mismatch
  | runFull
deriving DecidableEq, Repr

/-- The nine event kinds (section 10.4). -/
inductive Event where
  | lockAcquired
  | lockLost
  | commandDone
  | sequenceGap
  | tempOutside
  | checkpointDone
  | memoryFault
  | runFull
  | shortSubframe
deriving DecidableEq, Repr

/-- The 28 counters, in the order of section 11.3. -/
inductive Counter where
  | headersCompleted
  | skipped
  | duplicate
  | stale
  | bad
  | foreign
  | mismatch
  | runFull
  | missingSubframes
  | shortSubframes
  | blocksLanded
  | repeatBlocks
  | malformedBursts
  | idleCaptureBeats
  | hotSkips
  | rejected
  | saturated
  | spilled
  | collided
  | temperatureOutside
  | darkReadErrors
  | fillErrors
  | writebackFailures
  | lostTiles
  | checkpoints
  | checkpointFailures
  | refusedWhileBusy
  | classWritesIgnored
deriving DecidableEq, Repr

/-- The outcomes of a command (R146). -/
inductive CommandOutcome where
  | done
  | badCommand
  | wrongState
  | badPlan
  | noDark
  | badSlot
  | badContext
  | emptyRun
  | memoryFault
  | aborted
deriving DecidableEq, Repr

/-- The long commands, which hold the Command Unit BUSY (R145). -/
inductive LongCommand where
  | endRun
  | checkpoint
  | resume
  | commitDark
  | dropDark
  | adoptLibrary
deriving DecidableEq, Repr

/-- The requesters of the M-link Arbiter, in the order of R177. -/
inductive Requester where
  | passThrough
  | darkFetch
  | sectorFill
  | sectorWriteback
  | bulkMover
deriving DecidableEq, Repr

/-! ## Requests, transactions and answers -/

/-- A P-link request, or the M-link transaction of the same shape (R165, R176). -/
inductive Request where
  | read (addr : BitVec 32) (beats : Nat)
  | write (addr : BitVec 32) (beats : List Beat)
deriving DecidableEq, Repr

/-- The answer to a P-link request: the beats returned (none for a write) and the response (R166). -/
structure Answer where
  resp : Response
  beats : List (BitVec 64)
deriving DecidableEq, Repr

/-- What a transaction in flight was placed for: its requester's own work and, where there are several, which part. -/
inductive Purpose where
  | passThrough
  | darkFetch (row block : Nat) (second : Bool)
  | fill (part : Nat)
  /-- A read of a fill that an ABORT's stop has dropped; its answer is taken and its bytes are not used (log 33). -/
  | droppedFill
  | evict (part : Nat)
  | flush (part : Nat)
  | contextWrite
  | contextRead (part : Nat)
  | recordRead (part : Nat)
  | planeWrite (part : Nat)
  | libraryWrite
  | libraryRead
deriving DecidableEq, Repr

/-- A transaction in flight on the M-link. -/
structure Flight where
  purpose : Purpose
  txn : Request
deriving DecidableEq, Repr

/-! ## Plan shadow and run snapshot -/

/-- The frozen plan fields (R181), plan page bytes 0x008 to 0x03F in their order (section 11.2). -/
structure Frozen where
  width : BitVec 16
  height : BitVec 16
  pitch : BitVec 16
  darkUse : Bool
  oddReverse : Bool
  captureBase : BitVec 32
  resultBase : BitVec 32
  accBase : BitVec 32
  darkBase : BitVec 32
  ckptBase : BitVec 32
  runTag : BitVec 32
  evenCode : BitVec 8
  oddCode : BitVec 8
  nwarm : BitVec 8
  kq : BitVec 8
  devfloor : BitVec 16
  devinit : BitVec 16
  satlevel : BitVec 16
  span : BitVec 16
  poleA : BitVec 32
  poleB : BitVec 32
  rate : BitVec 32
deriving DecidableEq, Repr

/-- The frozen fields after the RESET line (R182); the snapshot takes the same values (R148). -/
def Frozen.reset : Frozen where
  width := 0
  height := 0
  pitch := 0
  darkUse := false
  oddReverse := false
  captureBase := 0
  resultBase := 0
  accBase := 0
  darkBase := 0
  ckptBase := 0
  runTag := 0
  evenCode := 0xE4
  oddCode := 0xE4
  nwarm := 3
  kq := 12
  devfloor := 16
  devinit := 64
  satlevel := 65535
  span := 0
  poleA := 0
  poleB := 0
  rate := 0

/-- The plan shadow: the frozen fields and the live fields that hold a value (R181). `levels` is the whole 32-bit event
levels field as last written. -/
structure Plan where
  frozen : Frozen
  gain : BitVec 16
  trailGain : BitVec 16
  fill : BitVec 16
  hotThreshold : BitVec 16
  classPage : BitVec 8
  levels : BitVec 32
deriving DecidableEq, Repr

/-- The plan shadow after the RESET line (R182). -/
def Plan.reset : Plan where
  frozen := Frozen.reset
  gain := 256
  trailGain := 256
  fill := 0
  hotThreshold := 4000
  classPage := 0
  levels := 0

/-! ## Header Unit -/

/-- A slot the Dark Unit uses for a subframe, with its exposure scale (R46, R48). -/
structure SlotUse where
  slot : Nat
  scale : BitVec 16
deriving DecidableEq, Repr

/-- The Dark Unit's choice for a subframe (R46 to R49): slot a, slot b and the weight. -/
structure DarkChoice where
  a : Option SlotUse
  b : Option SlotUse
  weight : BitVec 8
deriving DecidableEq, Repr

/-- No slots and weight 0 (R45). -/
def DarkChoice.none : DarkChoice := ⟨Option.none, Option.none, 0⟩

/-- The context of the open subframe (section 2.5). The cosine and sine count multiples of 2^-30. -/
structure Subframe where
  index : BitVec 16
  temperature : BitVec 16
  exposure : BitVec 32
  tmid : BitVec 32
  choice : DarkChoice
  phase : BitVec 40
  c : Int
  s : Int
  landed : Nat
  position : BitVec 4
deriving DecidableEq, Repr

/-- One entry of the header history (R40). -/
structure HistoryEntry where
  seq : BitVec 16
  disposition : Disposition
  isOpen : Bool
  slotA : Option Nat
  slotB : Option Nat
  temperature : BitVec 16
  index : BitVec 16
  exposure : BitVec 32
  timestamp : BitVec 32
  weight : BitVec 8
  phase : BitVec 16
  landed : Nat
deriving DecidableEq, Repr

/-- The Header Unit (chapter 2, state table). -/
structure HeaderUnit where
  line : List Host.Cell
  received : BitVec 64
  lock : Lock
  last : BitVec 16
  badRun : Nat
  folded : BitVec 16
  opened : Option Subframe
  landing : List (Nat × Bool)
  history : List (Nat × Option HistoryEntry)
  head : BitVec 4
  count : Nat
deriving DecidableEq, Repr

def HeaderUnit.reset : HeaderUnit where
  line := []
  received := 0
  lock := .hunt
  last := 0
  badRun := 0
  folded := 0
  opened := none
  landing := []
  history := []
  head := 0
  count := 0

/-! ## Dark Unit -/

/-- A dark slot that is not EMPTY: BUILDING or VALID, with its six fields (R42). -/
structure Slot where
  building : Bool
  temperature : BitVec 16
  eref : BitVec 32
  frames : BitVec 16
  width : BitVec 16
  height : BitVec 16
  base : BitVec 32
deriving DecidableEq, Repr

/-- The Dark Unit (chapter 3, state table). An unlisted slot is EMPTY, every field 0. -/
structure DarkUnit where
  slots : List (Nat × Option Slot)
  tempSum : BitVec 64
  eref : BitVec 32
  erefSet : Bool
deriving DecidableEq, Repr

def DarkUnit.reset : DarkUnit := ⟨[], 0, 0, false⟩

/-! ## Rotation Unit -/

/-- The Rotation Unit (chapter 5, state table). `c` and `s` count multiples of 2^-30. -/
structure RotationUnit where
  t0 : BitVec 32
  t0Set : Bool
  phase : BitVec 40
  c : Int
  s : Int
deriving DecidableEq, Repr

def RotationUnit.reset : RotationUnit := ⟨0, false, 0, 1073741824, 0⟩

/-! ## Tile Cache -/

/-- An accumulation record (R68). -/
structure Rec where
  sum : BitVec 32
  n : BitVec 16
  dev : BitVec 16
  peak : BitVec 16
  stamp : BitVec 16
deriving DecidableEq, Repr

/-- The four states of a sector that is not FREE (R108). -/
inductive SectorState where
  | filling
  | clean
  | dirty
  | writing
deriving DecidableEq, Repr

/-- A sector that is not FREE (R108). `held` is the held count, 0 or 1. Its 1024 records are listed by tile position;
a position not listed holds `fresh`, the fresh record of the run at the allocation (R69). -/
structure Sector where
  state : SectorState
  tile : Nat
  held : Bool
  failedOnce : Bool
  fresh : Rec
  recs : List (Nat × Rec)
deriving DecidableEq, Repr

/-- The flush in progress: the sector number it has reached, and whether it has lost a tile (R123, R124). -/
structure Flush where
  reached : Nat
  lost : Bool
deriving DecidableEq, Repr

/-- The fill in progress (R118, R119): reads placed and ended, whether one was answered ERROR, and the bytes read. -/
structure Fill where
  tile : Nat
  sector : Nat
  placed : Nat
  ended : Nat
  failed : Bool
  parts : List (Nat × Chunk)
deriving DecidableEq, Repr

/-- The writeback in progress (R120, R121), an eviction's or a flush's. -/
structure Writeback where
  sector : Nat
  forFlush : Bool
  placed : Nat
  ended : Nat
  failed : Bool
deriving DecidableEq, Repr

/-- The Tile Cache (chapter 6, state table). An unlisted sector is FREE. -/
structure TileCache where
  sectors : List (Nat × Option Sector)
  recency : List Nat
  touched : List (Nat × Bool)
  flush : Option Flush
  fill : Option Fill
  writeback : Option Writeback
  firstFillError : Option Nat
deriving DecidableEq, Repr

def TileCache.reset : TileCache := ⟨[], [], [], none, none, none, none⟩

/-! ## The request in hand -/

/-- Where a dark fetch of a block stands (R50, R51). -/
inductive FetchState where
  | wanted
  | placed
  | ended (data : BitVec 512)
  | failed
deriving DecidableEq, Repr

/-- One dark fetch of a landed block: its address, the scale of its slot, and where it stands. -/
structure Fetch where
  addr : Nat
  scale : BitVec 16
  state : FetchState
deriving DecidableEq, Repr

/-- A landed block in the Dark Unit: row, block, the 32 raw values in column order, its fetches (slot a's, slot b's)
and the weight (R50). -/
structure Block where
  row : Nat
  block : Nat
  values : List (BitVec 16)
  fetchA : Option Fetch
  fetchB : Option Fetch
  weight : BitVec 8
deriving DecidableEq, Repr

/-- What the Dark Unit hands the Fold Engine for a pixel (R52, R53). -/
inductive DarkValue where
  | hot
  | level (d : BitVec 16)
deriving DecidableEq, Repr

/-- The block in the Fold Engine's hand (chapter 4, state table), with the rotation of its subframe. -/
structure Fold where
  row : Nat
  block : Nat
  values : List (BitVec 16)
  darks : List DarkValue
  index : BitVec 16
  c : Int
  s : Int
  column : Nat
deriving DecidableEq, Repr

/-- A capture burst in hand: the block being folded, if any, and the blocks that have landed after it (R50, R73). -/
structure Capture where
  fold : Option Fold
  blocks : List Block
deriving DecidableEq, Repr

/-- The two result views (R128). -/
inductive View where
  | image
  | coverage
deriving DecidableEq, Repr

/-- Which record of a pixel the Finishing Unit asks for next (R137). -/
inductive PixelStage where
  | own
  | left
  | right
deriving DecidableEq, Repr

/-- A result read in hand (chapter 7, state table): the view, the fields its view was placed from when the read was taken
(log 38), the offset of its first byte in the view, its beat count, the next lane (four to a beat, counted from the even
offset at or below the first byte) with the stage of its pixel, and the values formed so far. -/
structure ResultRead where
  view : View
  frame : Frozen
  offset : Nat
  beats : Nat
  lane : Nat
  stage : PixelStage
  values : List (BitVec 16)
deriving DecidableEq, Repr

/-- The P-link request in hand (R165). -/
inductive InHand where
  /-- A request that passes through; `placed` once its transaction is on the M-link (R174). -/
  | through (req : Request) (placed : Bool)
  /-- A header burst held by an automatic checkpoint (R35). -/
  | header
  /-- A capture burst whose blocks are being fetched for and folded (R11). -/
  | capture (cap : Capture)
  /-- A result read (R129). -/
  | result (rd : ResultRead)
deriving DecidableEq, Repr

/-! ## Command Unit, Bulk Mover, Report Unit, M-link Arbiter -/

/-- The last-command record (R146); `outcome` is `none` while pending. -/
structure LastCommand where
  code : BitVec 16
  arg : BitVec 16
  outcome : Option CommandOutcome
  aborted : BitVec 16
deriving DecidableEq, Repr

/-- Who asked for the flush and context write in progress (R156, R158, R159). -/
inductive Saver where
  | endRun
  | checkpoint
  | automatic
deriving DecidableEq, Repr

/-- The Command Unit (chapters 8 and 10, state tables). `mode` is the run mode and the snapshot's run mode (R148). -/
structure CommandUnit where
  inFlight : Option (LongCommand × BitVec 16)
  aborting : Bool
  record : LastCommand
  taken : BitVec 16
  lastRefused : BitVec 16
  run : RunState
  mode : RunMode
  snap : Frozen
  plan : Plan
  progress : BitVec 32
  saving : Option Saver
deriving DecidableEq, Repr

def CommandUnit.reset : CommandUnit where
  inFlight := none
  aborting := false
  record := ⟨0, 0, some .done, 0⟩
  taken := 0
  lastRefused := 0
  run := .idle
  mode := .light
  snap := Frozen.reset
  plan := Plan.reset
  progress := 0
  saving := none

/-- A COMMIT_DARK in its walk: the slot it builds, the tile in hand and the hot threshold read when taken (R56). -/
structure Commit where
  slot : Nat
  tile : Nat
  hot : BitVec 16
deriving DecidableEq, Repr

/-- The operation the Bulk Mover is at (00_scope, Blocks). -/
inductive BulkOp where
  /-- A context write at a base: the record's 32 parts, the loss its flush reported, the step 0 to 32, and whether that
  write is placed (R155). -/
  | contextWrite (base : BitVec 32) (parts : List Chunk) (lost : Bool) (step : Nat) (placed : Bool)
  /-- The reads of RESUME (R160). -/
  | contextRead (base : BitVec 32) (placed ended : Nat) (failed : Bool) (parts : List (Nat × Chunk))
  /-- The record reads of a COMMIT_DARK tile (R59). -/
  | recordRead (job : Commit) (placed ended : Nat) (failed : Bool) (parts : List (Nat × Chunk))
  /-- The plane writes of a COMMIT_DARK tile (R58). -/
  | planeWrite (job : Commit) (plane : List Chunk) (placed ended : Nat) (failed : Bool)
  /-- The library record write of COMMIT_DARK or DROP_DARK (R64). -/
  | libraryWrite (base : BitVec 32) (image : Chunk) (placed : Bool)
  /-- The library record read of ADOPT_LIBRARY (R66). -/
  | libraryRead (base : BitVec 32) (placed : Bool)
deriving DecidableEq, Repr

/-- The Report Unit (chapter 10, state table). An unlisted counter is 0. -/
structure ReportUnit where
  counters : List (Nat × BitVec 32)
  hotMarked : BitVec 32
  uncovered : BitVec 32
  clampMask : BitVec 4
  raised : BitVec 9
deriving DecidableEq, Repr

def ReportUnit.reset : ReportUnit := ⟨[], 0, 0, 0, 0⟩

/-- The pass counts of the five requesters (R178). -/
structure PassCounts where
  passThrough : Nat
  darkFetch : Nat
  sectorFill : Nat
  sectorWriteback : Nat
  bulkMover : Nat
deriving DecidableEq, Repr

/-- The M-link Arbiter (chapter 9, state table), with the transactions in flight in the order they were placed. -/
structure Arbiter where
  passCounts : PassCounts
  inFlight : List Flight
deriving DecidableEq, Repr

def Arbiter.reset : Arbiter := ⟨⟨0, 0, 0, 0, 0⟩, []⟩

/-! ## State, faults and refusals -/

/-- The whole state of the part, and the queue of commands that wait (log 3). -/
structure State where
  resetLow : Bool
  planBase : BitVec 32
  inHand : Option InHand
  waiting : List Request
  answers : List Answer
  hdr : HeaderUnit
  dark : DarkUnit
  rot : RotationUnit
  cache : TileCache
  cmd : CommandUnit
  rep : ReportUnit
  arb : Arbiter
  bulk : Option BulkOp
  classes : List (Nat × TileClass)
  pending : List Instr
deriving DecidableEq, Repr

/-- The faults: none. Nothing stops the part (R146, R166, R186, R188 say how an error shows), so the type is empty. Safe. -/
inductive Fault
deriving DecidableEq, Repr

/-- The refusals. -/
inductive Refusal where
  /-- Raised by a dispatch arm of a command that has no meaning yet; no arm does so now. Safe: the model stops. -/
  | notModelled (mnemonic : String)
deriving DecidableEq, Repr

/-- The state after the RESET line, released with both straps at 0 (log 2): every block at its reset values. -/
def State.reset : State where
  resetLow := false
  planBase := 0x0FF00000
  inHand := none
  waiting := []
  answers := []
  hdr := HeaderUnit.reset
  dark := DarkUnit.reset
  rot := RotationUnit.reset
  cache := TileCache.reset
  cmd := CommandUnit.reset
  rep := ReportUnit.reset
  arb := Arbiter.reset
  bulk := none
  classes := []
  pending := []

/-! ## Updates of one block each (their lemmas stand in Laws/State.lean) -/

def State.setResetLow (s : State) (x : Bool) : State := { s with resetLow := x }
def State.setPlanBase (s : State) (x : BitVec 32) : State := { s with planBase := x }
def State.setInHand (s : State) (x : Option InHand) : State := { s with inHand := x }
def State.setWaiting (s : State) (x : List Request) : State := { s with waiting := x }
def State.setAnswers (s : State) (x : List Answer) : State := { s with answers := x }
def State.setHdr (s : State) (x : HeaderUnit) : State := { s with hdr := x }
def State.setDark (s : State) (x : DarkUnit) : State := { s with dark := x }
def State.setRot (s : State) (x : RotationUnit) : State := { s with rot := x }
def State.setCache (s : State) (x : TileCache) : State := { s with cache := x }
def State.setCmd (s : State) (x : CommandUnit) : State := { s with cmd := x }
def State.setRep (s : State) (x : ReportUnit) : State := { s with rep := x }
def State.setArb (s : State) (x : Arbiter) : State := { s with arb := x }
def State.setBulk (s : State) (x : Option BulkOp) : State := { s with bulk := x }
def State.setClasses (s : State) (x : List (Nat × TileClass)) : State := { s with classes := x }
def State.setPending (s : State) (x : List Instr) : State := { s with pending := x }

end Sys2Proof.Machine
end

