-- ==== Sys2Proof/Machine/Ops.lean ====
section
/-! DEFINITION. Machine/Ops.lean: the operations every block shares: tables by number, bytes of words, byte layouts,
rounding, counters, events and P-link answers. -/

namespace Sys2Proof.Machine

/-! ## Tables: lists of (index, value) pairs in rising order, nothing listed at the default value (log 28) -/

/-- What index `i` holds; `d` where it is not listed. -/
def Table.get {α : Type} (d : α) : List (Nat × α) → Nat → α
  | [], _ => d
  | (k, v) :: rest, i => if k = i then v else Table.get d rest i

/-- The table with `(i, v)` put before the first index above `i`. -/
def Table.insert {α : Type} (i : Nat) (v : α) : List (Nat × α) → List (Nat × α)
  | [] => [(i, v)]
  | (k, w) :: rest => if i < k then (i, v) :: (k, w) :: rest else (k, w) :: Table.insert i v rest

/-- The table without index `i`. -/
def Table.erase {α : Type} (t : List (Nat × α)) (i : Nat) : List (Nat × α) :=
  t.filter fun p => decide (p.1 ≠ i)

/-- The table with index `i` holding `v`; an index that comes to hold the default is no longer listed. -/
def Table.set {α : Type} [DecidableEq α] (d : α) (t : List (Nat × α)) (i : Nat) (v : α) : List (Nat × α) :=
  if v = d then Table.erase t i else Table.insert i v (Table.erase t i)

/-- Every index of the list is above `lo`, rising, and holds something other than the default. -/
def Table.above {α : Type} [DecidableEq α] (d : α) : Nat → List (Nat × α) → Bool
  | _, [] => true
  | lo, (k, v) :: rest => decide (lo ≤ k) && decide (v ≠ d) && Table.above d (k + 1) rest

/-- The canonical form: indices strictly rising, nothing listed at the default value. -/
def Table.wf {α : Type} [DecidableEq α] (d : α) (t : List (Nat × α)) : Bool := Table.above d 0 t

/-! ## Bytes, words and layouts (little-endian, 00_scope) -/

/-- Byte `i` of a word. -/
def byteOf {w : Nat} (v : BitVec w) (i : Nat) : Byte := v.extractLsb' (8 * i) 8

/-- The word with byte `i` replaced. -/
def putByte {w : Nat} (v : BitVec w) (i : Nat) (b : Byte) : BitVec w :=
  (v &&& ~~~(BitVec.ofNat w (255 * 2 ^ (8 * i)))) ||| BitVec.ofNat w (b.toNat * 2 ^ (8 * i))

/-- One field of a byte layout: its offset and length in bytes and its value. -/
structure Field where
  off : Nat
  len : Nat
  val : Nat
deriving DecidableEq, Repr

/-- A layout's bytes read as one little-endian number; bytes no field uses are 0 (section 11). -/
def imageOf (fields : List Field) : Nat :=
  fields.foldr (fun f rest => f.val % 2 ^ (8 * f.len) * 2 ^ (8 * f.off) + rest) 0

/-- The same fields `by_` bytes further on. -/
def shiftFields (by_ : Nat) (fields : List Field) : List Field :=
  fields.map fun f => { f with off := f.off + by_ }

/-- `len` bytes of an image from byte `off`, as a number. -/
def fieldAt (image off len : Nat) : Nat := image / 2 ^ (8 * off) % 2 ^ (8 * len)

/-- Part `i` of an image, 128 bytes. -/
def partOf (image i : Nat) : Chunk := BitVec.ofNat 1024 (image / 2 ^ (1024 * i))

/-- The image of the first `n` parts of a table of parts. -/
def imageOfParts (n : Nat) (parts : List (Nat × Chunk)) : Nat :=
  (List.range n).foldr (fun i rest => (Table.get 0 parts i).toNat * 2 ^ (1024 * i) + rest) 0

/-- The sum of the first `n` little-endian 16-bit words of an image. -/
def wordSum (n image : Nat) : Nat :=
  (List.range n).foldr (fun i rest => image / 2 ^ (16 * i) % 65536 + rest) 0

/-- The check word that makes a sum of words 0 modulo 65536 (R64, R154). -/
def checkWord (sum : Nat) : Nat := (65536 - sum % 65536) % 65536

/-- The 16 write beats of a 128-byte write, every strobe set (R176). -/
def chunkBeats (c : Chunk) : List Beat :=
  (List.range 16).map fun i => ⟨c.extractLsb' (64 * i) 64, 0xFF⟩

/-- The first `n` beats of M-link read data. -/
def readBeats (n : Nat) (c : Chunk) : List (BitVec 64) :=
  (List.range n).map fun i => c.extractLsb' (64 * i) 64

/-- A 16-bit word's bit as a number. -/
def bit (b : Bool) : Nat := if b then 1 else 0

/-! ## Arithmetic -/

/-- `v + k`, held at the greatest value (R186). -/
def satAdd {w : Nat} (v : BitVec w) (k : Nat) : BitVec w := BitVec.ofNat w (min (2 ^ w - 1) (v.toNat + k))

/-- `num / den` rounded half-even (00_scope, Rounding). -/
def halfEven (num : Int) (den : Nat) : Int :=
  let q := num / (den : Int)
  let r := num % (den : Int)
  if 2 * r < (den : Int) then q
  else if (den : Int) < 2 * r then q + 1
  else if q % 2 = 0 then q else q + 1

/-- `num / 2^k` rounded to the nearest integer, a tie going away from zero (00_scope, Rounding). -/
def awayShift (num : Int) (k : Nat) : Int :=
  let m : Int := ((num.natAbs + 2 ^ (k - 1)) / 2 ^ k : Nat)
  if num < 0 then -m else m

/-! ## Counters and events at the Report Unit (R186, R188) -/

/-- The index of a counter (section 11.3). -/
def Counter.index : Counter → Nat
  | .headersCompleted => 0
  | .skipped => 1
  | .duplicate => 2
  | .stale => 3
  | .bad => 4
  | .foreign => 5
  | .mismatch => 6
  | .runFull => 7
  | .missingSubframes => 8
  | .shortSubframes => 9
  | .blocksLanded => 10
  | .repeatBlocks => 11
  | .malformedBursts => 12
  | .idleCaptureBeats => 13
  | .hotSkips => 14
  | .rejected => 15
  | .saturated => 16
  | .spilled => 17
  | .collided => 18
  | .temperatureOutside => 19
  | .darkReadErrors => 20
  | .fillErrors => 21
  | .writebackFailures => 22
  | .lostTiles => 23
  | .checkpoints => 24
  | .checkpointFailures => 25
  | .refusedWhileBusy => 26
  | .classWritesIgnored => 27

/-- The value of a counter. -/
def State.counter (s : State) (c : Counter) : BitVec 32 := Table.get 0 s.rep.counters c.index

/-- A counter rises by `k` and holds at 4,294,967,295 (R186). -/
def count (c : Counter) (k : Nat) (s : State) : State :=
  s.setRep { s.rep with counters := Table.set 0 s.rep.counters c.index (satAdd (s.counter c) k) }

/-- The bit of an event (section 10.4). -/
def Event.bit : Event → Nat
  | .lockAcquired => 0
  | .lockLost => 1
  | .commandDone => 2
  | .sequenceGap => 3
  | .tempOutside => 4
  | .checkpointDone => 5
  | .memoryFault => 6
  | .runFull => 7
  | .shortSubframe => 8

/-- An event is raised: its pending flag is set, whatever its level (R188). -/
def raise (e : Event) (s : State) : State :=
  s.setRep { s.rep with raised := s.rep.raised ||| BitVec.twoPow 9 e.bit }

/-! ## Answers on the P-link (R166) -/

/-- The request in hand, or the one just taken, is answered: nothing is in hand after. -/
def answer (resp : Response) (beats : List (BitVec 64)) (s : State) : State :=
  (s.setAnswers (s.answers ++ [⟨resp, beats⟩])).setInHand none

/-! ## Reading the blocks -/

/-- The class of a tile, as the class table holds it now (R3). -/
def State.classOf (s : State) (tile : Nat) : TileClass := Table.get .ground s.classes tile

/-- A sector; `none` when it is FREE (R108). -/
def TileCache.sector (c : TileCache) (i : Nat) : Option Sector := Table.get none c.sectors i

/-- The cache with a sector replaced. -/
def TileCache.setSector (c : TileCache) (i : Nat) (x : Option Sector) : TileCache :=
  { c with sectors := Table.set none c.sectors i x }

/-- The touched mark of a tile (R111). -/
def TileCache.isTouched (c : TileCache) (tile : Nat) : Bool := Table.get false c.touched tile

/-- A dark slot; `none` when it is EMPTY (R42). -/
def DarkUnit.slot (d : DarkUnit) (i : Nat) : Option Slot := Table.get none d.slots i

/-- The slot table with a slot replaced. -/
def DarkUnit.setSlot (d : DarkUnit) (i : Nat) (x : Option Slot) : DarkUnit :=
  { d with slots := Table.set none d.slots i x }

/-- Whether the long command in flight is this one (R145). -/
def State.inFlightIs (s : State) (c : LongCommand) : Bool :=
  match s.cmd.inFlight with
  | some (d, _) => decide (d = c)
  | none => false

end Sys2Proof.Machine
end

