-- ==== Sys2Proof/Machine/Geometry.lean ====
section
/-! DEFINITION. Machine/Geometry.lean: the image geometry, the tile grid, the regions of a plan, and the tests of START
and RESUME over them (R1, R2, R14, R128, R150, R151). -/

namespace Sys2Proof.Machine

/-- Tile columns, W / 32 (R2). -/
def Frozen.tw (f : Frozen) : Nat := f.width.toNat / 32

/-- Tile rows, H / 32 (R2). -/
def Frozen.th (f : Frozen) : Nat := f.height.toNat / 32

/-- The tile count T (R2). -/
def Frozen.tiles (f : Frozen) : Nat := f.tw * f.th

/-- The tile of a pixel (R2). -/
def Frozen.tileOf (f : Frozen) (x y : Nat) : Nat := y / 32 * f.tw + x / 32

/-- The tile position of a pixel (R2). -/
def tilePosition (x y : Nat) : Nat := y % 32 * 32 + x % 32

/-- The count of blocks in a subframe, TW · H (R16). -/
def Frozen.blocks (f : Frozen) : Nat := f.tw * f.height.toNat

/-- A legal geometry (R1). -/
def Frozen.legal (f : Frozen) : Bool :=
  decide (f.width.toNat % 32 = 0 ∧ 256 ≤ f.width.toNat ∧ f.width.toNat ≤ 6144
    ∧ f.height.toNat % 32 = 0 ∧ 256 ≤ f.height.toNat ∧ f.height.toNat ≤ 4096
    ∧ f.pitch.toNat % 64 = 0 ∧ 2 * f.width.toNat ≤ f.pitch.toNat ∧ f.pitch.toNat ≤ 16384)

/-- The pixel offset lane `l` of a beat carries under a lane code (R13). -/
def laneOffset (code : BitVec 8) (l : Nat) : Nat := code.toNat / 4 ^ l % 4

/-- A lane code is a permutation (R13). -/
def isPermutation (code : BitVec 8) : Bool :=
  (List.range 4).all fun o => (List.range 4).any fun l => decide (laneOffset code l = o)

/-- A span of addresses. -/
structure Region where
  base : Nat
  size : Nat
deriving DecidableEq, Repr

/-- Whether an address lies in a region. -/
def Region.contains (r : Region) (a : Nat) : Bool := decide (r.base ≤ a ∧ a < r.base + r.size)

/-- Whether some byte lies in both regions (R151). -/
def Region.overlaps (r t : Region) : Bool :=
  decide (0 < r.size ∧ 0 < t.size ∧ r.base < t.base + t.size ∧ t.base < r.base + r.size)

/-- V, the length of one result view (R128). -/
def Frozen.viewSize (f : Frozen) : Nat := (f.height.toNat * f.pitch.toNat + (mib - 1)) / mib * mib

/-- The regions of a plan, each from its base with the extent of R151. -/
def Frozen.captureRegion (f : Frozen) : Region := ⟨f.captureBase.toNat, 4096 + f.height.toNat * f.pitch.toNat⟩
def Frozen.imageRegion (f : Frozen) : Region := ⟨f.resultBase.toNat, f.viewSize⟩
def Frozen.coverageRegion (f : Frozen) : Region := ⟨f.resultBase.toNat + f.viewSize, f.viewSize⟩
def Frozen.resultRegion (f : Frozen) : Region := ⟨f.resultBase.toNat, 2 * f.viewSize⟩
def Frozen.accRegion (f : Frozen) : Region := ⟨f.accBase.toNat, f.tiles * 12288⟩
def Frozen.darkRegion (f : Frozen) : Region := ⟨f.darkBase.toNat, 201326592⟩
def Frozen.ckptRegion (f : Frozen) : Region := ⟨f.ckptBase.toNat, 8192⟩

/-- The six regions START forms (R151). -/
def Frozen.regions (planBase : BitVec 32) (f : Frozen) : List Region :=
  [⟨planBase.toNat, 8192⟩, f.captureRegion, f.resultRegion, f.accRegion, f.darkRegion, f.ckptRegion]

/-- No two regions of a list overlap. -/
def disjointRegions : List Region → Bool
  | [] => true
  | r :: rest => (rest.all fun t => !r.overlaps t) && disjointRegions rest

/-- The test START makes of the plan shadow and RESUME of the run context (R150, R151, R161). -/
def Frozen.usable (planBase : BitVec 32) (f : Frozen) : Bool :=
  f.legal && isPermutation f.evenCode && isPermutation f.oddCode
    && ([f.captureBase, f.resultBase, f.accBase, f.darkBase, f.ckptBase].all fun b => decide (b.toNat % mib = 0))
    && ((f.regions planBase).all fun r => decide (r.base + r.size ≤ memoryEnd))
    && disjointRegions (f.regions planBase)

/-- A plan shadow checkpoint base from which a command in IDLE places no transaction (R149). -/
def badCkptBase (b : BitVec 32) : Bool := decide (b.toNat % mib ≠ 0 ∨ memoryEnd < b.toNat + 8192)

/-- The extent of a slot's plane (R43). -/
def Slot.plane (x : Slot) : Region := ⟨x.base.toNat, x.width.toNat / 32 * (x.height.toNat / 32) * 2048⟩

/-- A slot matches a geometry when it is VALID and its width and height are W and H (R44). -/
def Slot.fits (x : Slot) (f : Frozen) : Bool :=
  !x.building && decide (x.width = f.width) && decide (x.height = f.height)

/-- The matching slots, with their numbers, in rising order (R44). -/
def DarkUnit.matching (d : DarkUnit) (f : Frozen) : List (Nat × Slot) :=
  (List.range 4).filterMap fun i =>
    match d.slot i with
    | some x => if x.fits f then some (i, x) else none
    | none => none

/-- The dark test: a LIGHT run with dark use set needs at least one matching slot (R44). -/
def darkTest (mode : RunMode) (f : Frozen) (d : DarkUnit) : Bool :=
  decide (mode = .dark) || !f.darkUse || !(d.matching f).isEmpty

end Sys2Proof.Machine
end

