-- ==== Sys2Proof/Machine/DarkUnit.lean ====
section
/-! DEFINITION. Machine/DarkUnit.lean: the choice of slots for a subframe, the fetches of a block and the dark values
they give (R45 to R53), and the bookkeeping of a DARK run (R55). -/

namespace Sys2Proof.Machine

/-! ## The choice (R46 to R48) -/

/-- The better lower candidate: a greater temperature not above `t`; the first listed keeps a tie. -/
def betterLower (t : Int) (best : Option (Nat × Slot)) (p : Nat × Slot) : Option (Nat × Slot) :=
  if p.2.temperature.toInt ≤ t then
    match best with
    | some q => if q.2.temperature.toInt < p.2.temperature.toInt then some p else best
    | none => some p
  else best

/-- The better upper candidate: a lesser temperature above `t`; the first listed keeps a tie. -/
def betterUpper (t : Int) (best : Option (Nat × Slot)) (p : Nat × Slot) : Option (Nat × Slot) :=
  if t < p.2.temperature.toInt then
    match best with
    | some q => if p.2.temperature.toInt < q.2.temperature.toInt then some p else best
    | none => some p
  else best

/-- The lower slot (R46). -/
def lowerSlot (t : Int) (slots : List (Nat × Slot)) : Option (Nat × Slot) := slots.foldl (betterLower t) none

/-- The upper slot (R46). -/
def upperSlot (t : Int) (slots : List (Nat × Slot)) : Option (Nat × Slot) := slots.foldl (betterUpper t) none

/-- The exposure scale: min(65535, half-up(E · 4096 / Eref)), 65535 for an Eref of 0 (R48). -/
def exposureScale (exposure eref : BitVec 32) : BitVec 16 :=
  if eref = 0 then 65535
  else BitVec.ofNat 16 (min 65535 ((2 * (exposure.toNat * 4096) + eref.toNat) / (2 * eref.toNat)))

/-- A slot as the subframe uses it. -/
def useSlot (exposure : BitVec 32) (p : Nat × Slot) : SlotUse := ⟨p.1, exposureScale exposure p.2.eref⟩

/-- The weight between two bracketing temperatures: floor((t - ta) · 256 / (tb - ta)) (R46). -/
def slotWeight (t ta tb : Int) : BitVec 8 := BitVec.ofInt 8 ((t - ta) * 256 / (tb - ta))

/-- The choice from the matching slots, and whether it is one of the two outside cases (R46, R47). -/
def chooseSlots (slots : List (Nat × Slot)) (temperature : BitVec 16) (exposure : BitVec 32) : DarkChoice × Bool :=
  let t := temperature.toInt
  match lowerSlot t slots, upperSlot t slots with
  | some lo, some hi =>
    if lo.2.temperature.toInt = t then (⟨some (useSlot exposure lo), none, 0⟩, false)
    else
      (⟨some (useSlot exposure lo), some (useSlot exposure hi),
        slotWeight t lo.2.temperature.toInt hi.2.temperature.toInt⟩, false)
  | some lo, none => (⟨some (useSlot exposure lo), none, 0⟩, decide (lo.2.temperature.toInt ≠ t))
  | none, some hi => (⟨some (useSlot exposure hi), none, 0⟩, true)
  | none, none => (DarkChoice.none, false)

/-- The choice at an opening: none in a DARK run or with dark use clear (R45), else from the matching slots. -/
def State.darkChoice (s : State) (temperature : BitVec 16) (exposure : BitVec 32) : DarkChoice × Bool :=
  if s.cmd.mode = .light ∧ s.cmd.snap.darkUse = true then
    chooseSlots (s.dark.matching s.cmd.snap) temperature exposure
  else (DarkChoice.none, false)

/-! ## The bookkeeping of a DARK run (R55) -/

/-- The temperature sum with a temperature added (R55); outside s64 a free value (log 10). -/
def addTemperature (sum : BitVec 64) (temperature : BitVec 16) : BitVec 64 :=
  let v := sum.toInt + temperature.toInt
  if -(2 : Int) ^ 63 ≤ v ∧ v < 2 ^ 63 then BitVec.ofInt 64 v else Config.temperatureSumOutside v

/-- The Dark Unit at an opening in a DARK run: the temperature added, the reference exposure set if unset (R32, R55). -/
def DarkUnit.openDark (d : DarkUnit) (temperature : BitVec 16) (exposure : BitVec 32) : DarkUnit :=
  { d with
    tempSum := addTemperature d.tempSum temperature
    eref := if d.erefSet then d.eref else exposure
    erefSet := true }

/-! ## The fetches of a block (R50, R51) -/

/-- The address of a block's 64 bytes in a plane (R50). -/
def fetchAddress (f : Frozen) (base : BitVec 32) (row block : Nat) : Nat :=
  base.toNat + (row / 32 * f.tw + block) * 2048 + row % 32 * 64

/-- A fetch as it is requested: one whose address is at or above 2^31 or not a multiple of 64 fails at once (R51). -/
def newFetch (f : Frozen) (d : DarkUnit) (row block : Nat) (u : SlotUse) : Fetch :=
  let base := match d.slot u.slot with
    | some x => x.base
    | none => 0
  let a := fetchAddress f base row block
  ⟨a, u.scale, if memoryEnd ≤ a ∨ a % 64 ≠ 0 then .failed else .wanted⟩

/-- A landed block on its way through the Dark Unit (R37, R50). -/
def newBlock (f : Frozen) (d : DarkUnit) (ch : DarkChoice) (row block : Nat) (values : List (BitVec 16)) : Block where
  row := row
  block := block
  values := values
  fetchA := ch.a.map (newFetch f d row block)
  fetchB := ch.b.map (newFetch f d row block)
  weight := ch.weight

/-- The fetch has ended, with or without error. -/
def FetchState.isOver : FetchState → Bool
  | .ended _ => true
  | .failed => true
  | .wanted => false
  | .placed => false

/-- Every fetch of the block has ended (R50). -/
def Block.fetchesOver (b : Block) : Bool :=
  (b.fetchA.all fun f => f.state.isOver) && (b.fetchB.all fun f => f.state.isOver)

/-- Some fetch of the block has ended in error (R51). -/
def Block.fetchFailed (b : Block) : Bool :=
  (b.fetchA.any fun f => decide (f.state = .failed)) || (b.fetchB.any fun f => decide (f.state = .failed))

/-- The dark value fetched for a column (R50). -/
def fetchedValue (data : BitVec 512) (col : Nat) : BitVec 16 := data.extractLsb' (16 * col) 16

/-- The scaled dark value min(65535, (d · q + 2048) >> 12) (R53). -/
def scaledDark (d q : BitVec 16) : Nat := min 65535 ((d.toNat * q.toNat + 2048) / 4096)

/-- The dark value of a pixel from the values its slots hold for it: hot where any is 0xFFFF, else scaled and, with two
slots, blended (R52, R53). -/
def darkOf (a b : Option (BitVec 16 × BitVec 16)) (w : BitVec 8) : DarkValue :=
  match a, b with
  | none, none => .level 0
  | some (d, q), none => if d = 0xFFFF then .hot else .level (BitVec.ofNat 16 (scaledDark d q))
  | none, some (d, q) => if d = 0xFFFF then .hot else .level (BitVec.ofNat 16 (scaledDark d q))
  | some (d, q), some (e, p) =>
    if d = 0xFFFF ∨ e = 0xFFFF then .hot
    else .level (BitVec.ofNat 16 ((scaledDark d q * (256 - w.toNat) + scaledDark e p * w.toNat + 128) / 256))

/-- The fetched value and scale of a column, once the fetch has ended without error. -/
def Fetch.at_ (col : Nat) (f : Fetch) : Option (BitVec 16 × BitVec 16) :=
  match f.state with
  | .ended data => some (fetchedValue data col, f.scale)
  | _ => none

/-- The 32 dark values of a block whose fetches have all ended without error (R52). -/
def Block.darks (b : Block) : List DarkValue :=
  (List.range 32).map fun col => darkOf (b.fetchA.bind (Fetch.at_ col)) (b.fetchB.bind (Fetch.at_ col)) b.weight

end Sys2Proof.Machine
end

