-- ==== Sys2Proof/Machine/Cache.lean ====
section
/-! DEFINITION. Machine/Cache.lean: the Tile Cache: records, sectors, accesses, allocation and victims, fills and
writebacks (R68 to R70, R108 to R122). -/

namespace Sys2Proof.Machine

/-! ## Records -/

/-- A fresh record (R69). -/
def freshRec (devinit : BitVec 16) : Rec := ⟨0, 0, devinit, 0, 0⟩

/-- A record's 12 bytes as a number (section 11.4). -/
def Rec.toNat (r : Rec) : Nat := (r.stamp ++ r.peak ++ r.dev ++ r.n ++ r.sum).toNat

/-- The record of 12 bytes (section 11.4). -/
def Rec.ofNat (v : Nat) : Rec :=
  let b : BitVec 96 := BitVec.ofNat 96 v
  ⟨b.extractLsb' 0 32, b.extractLsb' 32 16, b.extractLsb' 48 16, b.extractLsb' 64 16, b.extractLsb' 80 16⟩

/-- The record at a tile position of a sector. -/
def Sector.rec_ (x : Sector) (pos : Nat) : Rec := Table.get x.fresh x.recs pos

/-- A sector with one record replaced, as a sample's write leaves it: DIRTY (R115). -/
def Sector.write (x : Sector) (pos : Nat) (r : Rec) : Sector :=
  { x with state := .dirty, recs := Table.set x.fresh x.recs pos r }

/-- Bytes 128i to 128i + 127 of a sector: the twelve records from the one that holds its first byte (R120). -/
def Sector.part (x : Sector) (i : Nat) : Chunk :=
  let first := 128 * i / 12
  let twelve := (List.range 12).foldr (fun j rest => (x.rec_ (first + j)).toNat * 2 ^ (96 * j) + rest) 0
  BitVec.ofNat 1024 (twelve / 2 ^ (8 * (128 * i % 12)))

/-- The 1024 records of a tile's 12,288 bytes, those that differ from the fresh record listed (R118). -/
def recordsOf (fresh : Rec) (image : Nat) : List (Nat × Rec) :=
  ((List.range 1024).map fun p => (p, Rec.ofNat (image / 2 ^ (96 * p)))).filter fun p => decide (p.2 ≠ fresh)

/-! ## Sectors -/

/-- The sector that holds a tile (R108). -/
def TileCache.holder (c : TileCache) (tile : Nat) : Option Nat :=
  (List.range 32).find? fun i =>
    match c.sector i with
    | some x => decide (x.tile = tile)
    | none => false

/-- Whether a sector is in a given state. -/
def TileCache.stateIs (c : TileCache) (i : Nat) (st : SectorState) : Bool :=
  match c.sector i with
  | some x => decide (x.state = st)
  | none => false

/-- A sector becomes the most recent member of the recency order (R109). -/
def TileCache.toFront (c : TileCache) (i : Nat) : TileCache :=
  { c with recency := i :: c.recency.filter fun j => decide (j ≠ i) }

/-- A sector becomes FREE and leaves the recency order (R108, R109). -/
def TileCache.free (c : TileCache) (i : Nat) : TileCache :=
  { c.setSector i none with recency := c.recency.filter fun j => decide (j ≠ i) }

/-- A sector serves an access: most recent, and held by the burst (R109, R110, R112). -/
def TileCache.serve (c : TileCache) (i : Nat) : TileCache :=
  match c.sector i with
  | some x => (c.setSector i (some { x with held := true })).toFront i
  | none => c

/-- Every held count becomes 0 (R110). -/
def TileCache.releaseAll (c : TileCache) : TileCache :=
  { c with sectors := c.sectors.map fun p => (p.1, p.2.map fun x => { x with held := false }) }

/-- The cache with a record of a sector written and its tile touched (R115). -/
def TileCache.writeRec (c : TileCache) (i pos : Nat) (r : Rec) : TileCache :=
  match c.sector i with
  | some x => { c.setSector i (some (x.write pos r)) with touched := Table.set false c.touched x.tile true }
  | none => c

/-- Every sector FREE, the recency order empty, the touched map clear, no work in flight (R125). -/
def TileCache.clear (c : TileCache) : TileCache :=
  { c with sectors := [], recency := [], touched := [], flush := none, fill := none, writeback := none }

/-! ## Allocation and victims (R116, R117) -/

/-- The lowest-numbered FREE sector. -/
def TileCache.lowestFree (c : TileCache) : Option Nat := (List.range 32).find? fun i => (c.sector i).isNone

/-- A sector is eligible as a victim: not held, and CLEAN, or DIRTY while no flush is in progress. -/
def TileCache.eligible (c : TileCache) (i : Nat) : Bool :=
  match c.sector i with
  | some x => !x.held && (decide (x.state = .clean) || (decide (x.state = .dirty) && c.flush.isNone))
  | none => false

/-- The least recent eligible sector. -/
def TileCache.victim (c : TileCache) : Option Nat := c.recency.reverse.find? c.eligible

/-- A writeback of a sector begins: the sector is WRITING (R120). -/
def TileCache.beginWriteback (c : TileCache) (i : Nat) (forFlush : Bool) : TileCache :=
  match c.sector i with
  | some x => { c.setSector i (some { x with state := .writing }) with writeback := some ⟨i, forFlush, 0, 0, false⟩ }
  | none => c

/-- A sector taken for a tile, most recent, in the given state with fresh records (R113, R114, R116). -/
def TileCache.place (c : TileCache) (i tile : Nat) (st : SectorState) (fresh : Rec) : TileCache :=
  (c.setSector i (some ⟨st, tile, false, false, fresh, []⟩)).toFront i

/-- What an access comes to: served from a sector, fresh records without a sector, or a wait. -/
inductive Access where
  | served (c : TileCache) (sector : Nat)
  | fresh
  | waits (c : TileCache)
deriving DecidableEq, Repr

/-- A sector taken for an access: a fold's untouched tile is served at once, a touched tile's fill begins (R113, R114). -/
def TileCache.take (c : TileCache) (i tile : Nat) (fresh : Rec) : Access :=
  if c.isTouched tile then
    .waits { c.place i tile .filling fresh with fill := some ⟨tile, i, 0, 0, false, []⟩ }
  else .served ((c.place i tile .clean fresh).serve i) i

/-- The allocation of R116 for a tile that no sector holds. -/
def TileCache.allocate (c : TileCache) (tile : Nat) (fresh : Rec) : Access :=
  match c.lowestFree with
  | some i => c.take i tile fresh
  | none =>
    match c.victim with
    | some i => if c.stateIs i .dirty then .waits (c.beginWriteback i false) else c.take i tile fresh
    | none => .waits c

/-- An access to the records of a tile, by a fold or by the Finishing Unit (R112 to R114). -/
def TileCache.access (c : TileCache) (byFold : Bool) (tile : Nat) (fresh : Rec) : Access :=
  match c.holder tile with
  | some i => if c.stateIs i .filling then .waits c else .served (c.serve i) i
  | none => if c.isTouched tile || byFold then c.allocate tile fresh else .fresh

/-! ## Fills (R118, R119) -/

/-- The address of part `i` of a tile's records (R68). -/
def recordAddr (base : BitVec 32) (tile i : Nat) : BitVec 32 := BitVec.ofNat 32 (base.toNat + tile * 12288 + 128 * i)

/-- A read of the fill in progress has been answered. -/
def Fill.answered (f : Fill) (part : Nat) (resp : Response) (data : Chunk) : Fill :=
  { f with
    ended := f.ended + 1
    failed := f.failed || decide (resp = .error)
    parts := if resp = .ok then Table.set 0 f.parts part data else f.parts }

/-- The fill has ended: the sector is CLEAN, with the records read or, after an error, fresh records (R118, R119). -/
def TileCache.endFill (c : TileCache) (f : Fill) : TileCache :=
  let c := { c with fill := none }
  match c.sector f.sector with
  | some x =>
    let recs := if f.failed then [] else recordsOf x.fresh (imageOfParts 96 f.parts)
    let first := if f.failed ∧ c.firstFillError = none then some f.tile else c.firstFillError
    { c.setSector f.sector (some { x with state := .clean, recs := recs }) with firstFillError := first }
  | none => c

/-! ## Writebacks (R120 to R122) -/

/-- How a writeback has ended. -/
inductive WritebackEnd where
  | written
  | failedOnce
  | lost
deriving DecidableEq, Repr

/-- A write of the writeback in progress has been answered. -/
def Writeback.answered (w : Writeback) (resp : Response) : Writeback :=
  { w with ended := w.ended + 1, failed := w.failed || decide (resp = .error) }

/-- The writeback has ended: without error a flush's sector is CLEAN and an eviction's FREE (R120); a first failure
leaves the sector DIRTY, marked and most recent (R109, R121; after a flush writeback R123 says that the order stands: log 39,
the model's choice); a second loses the tile (R122), also under a result read in hand that has used it, where R129 says that
the records hold still (log 42, the model's choice). -/
def TileCache.endWriteback (c : TileCache) (w : Writeback) : TileCache × WritebackEnd :=
  let c := { c with writeback := none }
  match c.sector w.sector with
  | some x =>
    if w.failed then
      if x.failedOnce then
        ({ c.free w.sector with touched := Table.set false c.touched x.tile false }, .lost)
      else ((c.setSector w.sector (some { x with state := .dirty, failedOnce := true })).toFront w.sector, .failedOnce)
    else if w.forFlush then (c.setSector w.sector (some { x with state := .clean, failedOnce := false }), .written)
    else (c.free w.sector, .written)
  | none => (c, .written)

/-- The counters and the event of a writeback's end (R121, R122). -/
def countWriteback (e : WritebackEnd) (s : State) : State :=
  match e with
  | .written => s
  | .failedOnce => raise .memoryFault (count .writebackFailures 1 s)
  | .lost => raise .memoryFault (count .lostTiles 1 s)

/-- The next DIRTY sector from number `i` on (R123). -/
def TileCache.nextDirty (c : TileCache) (i : Nat) : Option Nat :=
  (List.range 32).find? fun j => decide (i ≤ j) && c.stateIs j .dirty

end Sys2Proof.Machine
end

