-- ==== Sys2Proof/Machine/Operands.lean ====
section
/-! DEFINITION. Machine/Operands.lean: the operand forms of the commands: the requests that command words, plan writes
and report accesses stand for, and the strobed bytes of a burst. -/

namespace Sys2Proof.Machine

/-- The code of a command word (R147). -/
def startCode : BitVec 16 := 0x0001
def endCode : BitVec 16 := 0x0002
def checkpointCode : BitVec 16 := 0x0003
def resumeCode : BitVec 16 := 0x0004
def commitDarkCode : BitVec 16 := 0x0010
def dropDarkCode : BitVec 16 := 0x0011
def adoptLibraryCode : BitVec 16 := 0x0012
def abortCode : BitVec 16 := 0x00FF

/-- The address of a plan page offset (R168). -/
def State.planAddr (s : State) (off : Nat) : BitVec 32 := s.planBase + BitVec.ofNat 32 off

/-- The address of a report page offset: the page lies directly after the plan page (R168). -/
def State.reportAddr (s : State) (off : Nat) : BitVec 32 := s.planBase + BitVec.ofNat 32 (4096 + off)

/-- The first beat of a command-word burst: code and arg with all four strobes, the clear word with its own (R144). -/
def commandBeat (code : BitVec 16) (b : CommandBurst) : Beat where
  data := b.clear ++ b.arg ++ code
  strobes := b.clearStrobes ++ (0xF : BitVec 4)

/-- The beats of a command-word burst. -/
def commandBeats (code : BitVec 16) (b : CommandBurst) : List Beat := commandBeat code b :: b.more

/-- The write request of a command-word burst. -/
def commandRequest (code : BitVec 16) (b : CommandBurst) (s : State) : Request :=
  .write (s.planAddr 0) (commandBeats code b)

/-- The one beat at plan offset 0 that strobes bytes of the event clear word alone (R190). -/
def clearBeat (word : BitVec 32) (strobes : BitVec 4) : Beat := ⟨word ++ (0 : BitVec 32), strobes ++ (0 : BitVec 4)⟩

/-- The one beat at plan offset 0x048 that strobes bytes of the event levels field alone (R189). -/
def levelsBeat (levels : BitVec 32) (strobes : BitVec 4) : Beat := ⟨levels ++ (0 : BitVec 32), strobes ++ (0 : BitVec 4)⟩

/-- The strobed bytes of a burst, each with its offset; `off` is the offset of the first byte (R165, R193). -/
def strobedBytes (off : Nat) : List Beat → List (Nat × Byte)
  | [] => []
  | b :: rest =>
    ((List.range 8).filter fun k => b.strobes.getLsbD k).map (fun k => (off + k, byteOf b.data k))
      ++ strobedBytes (off + 8) rest

/-- The strobed bytes of a burst at offsets 4 to 7, in their places of the event clear word, the others 0 (R190). -/
def clearWordOf (bytes : List (Nat × Byte)) : BitVec 32 :=
  bytes.foldl (fun w p => if 4 ≤ p.1 ∧ p.1 < 8 then putByte w (p.1 - 4) p.2 else w) 0

/-- The command a burst at a plan page offset carries: its first beat lies at offset 0 with the strobes of bytes 0 to 3
all set (R144). -/
def commandOf (off : Nat) : List Beat → Option (BitVec 16 × BitVec 16)
  | [] => none
  | b :: _ =>
    if off = 0 ∧ b.strobes.extractLsb' 0 4 = 0xF then some (b.data.extractLsb' 0 16, b.data.extractLsb' 16 16) else none

/-- The address of a request. -/
def Request.addr : Request → BitVec 32
  | .read a _ => a
  | .write a _ => a

/-- The beat count of a request. -/
def Request.beatCount : Request → Nat
  | .read _ n => n
  | .write _ bs => bs.length

end Sys2Proof.Machine
end

