-- ==== Sys2Proof/Machine/Windows.lean ====
section
/-! DEFINITION. Machine/Windows.lean: the Window Decoder: where the windows lie, which requests it refuses, and which
writes the protected regions refuse (R167 to R175). -/

namespace Sys2Proof.Machine

/-- The windows, in the order of R170; `pass` is every other address. -/
inductive Window where
  | plan
  | report
  | capture
  | image
  | coverage
  | checkpoint
  | accumulator
  | dark
  | pass
deriving DecidableEq, Repr

/-- The plan page address the straps select (R168). -/
def strapAddress (psel1 psel0 : Bool) : BitVec 32 :=
  match psel1, psel0 with
  | false, false => 0x0FF00000
  | false, true => 0x1FF00000
  | true, false => 0x3FF00000
  | true, true => 0x7FF00000

/-- The fields the windows are placed from: the plan shadow in IDLE, else the run snapshot (R169). -/
def State.active (s : State) : Frozen := if s.cmd.run = .idle then s.cmd.plan.frozen else s.cmd.snap

/-- Whether the windows whose extent depends on the geometry are in the set: in IDLE only for a legal geometry (R169). -/
def State.hasGeometry (s : State) : Bool := decide (s.cmd.run ≠ .idle) || s.active.legal

/-- Whether the capture window is in the set: in IDLE only for a legal geometry and an aligned capture base (R169). -/
def State.hasCapture (s : State) : Bool :=
  s.hasGeometry && (decide (s.cmd.run ≠ .idle) || decide (s.active.captureBase.toNat % mib = 0))

/-- The accumulator region of the active window set, empty where it is absent (R169, R173). -/
def State.accWindow (s : State) : Region := if s.hasGeometry then s.active.accRegion else ⟨0, 0⟩

/-- The active window set in the order of R170. -/
def State.windowRegions (s : State) : List (Window × Region) :=
  [(.plan, ⟨s.planBase.toNat, 4096⟩), (.report, ⟨s.planBase.toNat + 4096, 4096⟩)]
    ++ (if s.hasCapture then [(.capture, s.active.captureRegion)] else [])
    ++ (if s.hasGeometry then [(.image, s.active.imageRegion), (.coverage, s.active.coverageRegion)] else [])
    ++ [(.checkpoint, s.active.ckptRegion)]
    ++ (if s.hasGeometry then [(.accumulator, s.active.accRegion)] else [])
    ++ [(.dark, s.active.darkRegion)]

/-- The window a byte belongs to: the first of the set that holds it (R170). -/
def State.windowOf (s : State) (a : Nat) : Window :=
  match s.windowRegions.find? fun p => p.2.contains a with
  | some p => p.1
  | none => .pass

/-- A beat count from 1 to 16 (R165). -/
def goodCount (n : Nat) : Bool := decide (1 ≤ n ∧ n ≤ 16)

/-- The Window Decoder refuses the request (R167): misaligned, a bad beat count, a byte at 2^31 or above, a 4 KiB
boundary crossed, or bytes in more than one window. -/
def State.refuses (s : State) (r : Request) : Bool :=
  let a := r.addr.toNat
  let n := r.beatCount
  decide (a % 8 ≠ 0) || !goodCount n || decide (memoryEnd < a + 8 * n)
    || decide (a / 4096 ≠ (a + 8 * n - 1) / 4096)
    || !((List.range (8 * n)).all fun i => decide (s.windowOf (a + i) = s.windowOf a))

/-- The base of the checkpoint region the operation in progress guards, if it guards one: a context write, the reads of
RESUME, the whole of COMMIT_DARK, a library write, the read of ADOPT_LIBRARY (R175). -/
def State.guardedCkpt (s : State) : Option (BitVec 32) :=
  match s.bulk with
  | some (.contextWrite base _ _ _ _) => some base
  | some (.contextRead base _ _ _ _) => some base
  | some (.recordRead _ _ _ _ _) => some s.cmd.snap.ckptBase
  | some (.planeWrite _ _ _ _ _) => some s.cmd.snap.ckptBase
  | some (.libraryWrite base _ _) => some base
  | some (.libraryRead base _) => some base
  | none => none

/-- The accumulator region is protected (R173, R175). -/
def State.accProtected (s : State) : Bool :=
  decide (s.cmd.run = .running) || decide (s.cmd.run = .ending) || s.inFlightIs .commitDark || s.inFlightIs .resume

/-- The planes of matching slots are protected: a LIGHT run with dark use set, RUNNING or ENDING (R54). -/
def State.planesProtected (s : State) : Bool :=
  decide (s.cmd.mode = .light) && s.cmd.snap.darkUse
    && (decide (s.cmd.run = .running) || decide (s.cmd.run = .ending))

/-- The planes that are protected now: of a BUILDING slot, and of matching slots while R54 says so. A COMMIT_DARK's plane is
no longer protected once its slot is VALID or EMPTY, as R54 and R175 have it, where R57 says "while COMMIT_DARK is in flight"
(log 40, the model's choice). -/
def State.protectedPlanes (s : State) : List Region :=
  (List.range 4).filterMap fun i =>
    match s.dark.slot i with
    | some x => if x.building || (s.planesProtected && x.fits s.cmd.snap) then some x.plane else none
    | none => none

/-- The protected regions (R175). -/
def State.protectedRegions (s : State) : List Region :=
  (if s.accProtected then [s.accWindow] else [])
    ++ (match s.guardedCkpt with
        | some base => [⟨base.toNat, 8192⟩]
        | none => [])
    ++ s.protectedPlanes

/-- A write that would go to DRAM covers a byte of a protected region (R175). -/
def State.isProtected (s : State) (r : Request) : Bool :=
  s.protectedRegions.any fun t => t.overlaps ⟨r.addr.toNat, 8 * r.beatCount⟩

end Sys2Proof.Machine
end

