-- ==== Sys2Proof/Machine/Finish.lean ====
section
/-! DEFINITION. Machine/Finish.lean: the Finishing Unit: the value of a pixel and the serving of a result read
(R128 to R143). -/

namespace Sys2Proof.Machine

/-- min(65535, half-even(num / den)) as a pixel value. -/
def scaledValue (num den : Nat) : BitVec 16 := BitVec.ofNat 16 (min 65535 (halfEven num den).toNat)

/-- The scaled mean (R134). -/
def meanValue (p : Plan) (r : Rec) : BitVec 16 := scaledValue (r.sum.toNat * p.gain.toNat) (256 * r.n.toNat)

/-- The scaled peak (R135). -/
def peakValue (p : Plan) (r : Rec) : BitVec 16 := scaledValue (r.peak.toNat * p.trailGain.toNat) 256

/-- The value of a record with n of 1 or more under a class that is not EXCLUDE (R134, R135). -/
def recordValue (p : Plan) (cls : TileClass) (r : Rec) : BitVec 16 :=
  if cls = .trail then
    (if (meanValue p r).toNat < (peakValue p r).toNat then peakValue p r else meanValue p r)
  else meanValue p r

/-- The class a pixel is finished under: GROUND in a DARK run, else its tile's (R132). -/
def State.finishClass (s : State) (tile : Nat) : TileClass :=
  match s.cmd.mode with
  | .dark => .ground
  | .light => s.classOf tile

/-- What asking for a pixel's record comes to. -/
inductive RecordRead where
  | got (s : State) (r : Rec)
  | waits (s : State)

/-- The record of a pixel of the grid `f` as the Tile Cache supplies it to the Finishing Unit (R112 to R114). -/
def readRecord (f : Frozen) (x y : Nat) (s : State) : RecordRead :=
  let fresh := freshRec s.cmd.snap.devinit
  match s.cache.access false (f.tileOf x y) fresh with
  | .served c i =>
    match c.sector i with
    | some sec => .got (s.setCache c) (sec.rec_ (tilePosition x y))
    | none => .got (s.setCache c) fresh
  | .fresh => .got s fresh
  | .waits c => .waits (s.setCache c)

/-- How far a pixel has come: its value, or the stage at which it waits. -/
inductive PixelStep where
  | value (s : State) (v : BitVec 16)
  | waits (s : State) (stage : PixelStage)

/-- The right neighbour, else the fill value (R137). -/
def finishRight (f : Frozen) (x y : Nat) (s : State) : PixelStep :=
  let cls := s.finishClass (f.tileOf (x + 2) y)
  if x + 2 < f.width.toNat ∧ cls ≠ .exclude then
    match readRecord f (x + 2) y s with
    | .waits t => .waits t .right
    | .got t r => .value t (if r.n = 0 then t.cmd.plan.fill else recordValue t.cmd.plan cls r)
  else .value s s.cmd.plan.fill

/-- The left neighbour, else the right one (R137). -/
def finishLeft (f : Frozen) (x y : Nat) (s : State) : PixelStep :=
  let cls := s.finishClass (f.tileOf (x - 2) y)
  if 2 ≤ x ∧ cls ≠ .exclude then
    match readRecord f (x - 2) y s with
    | .waits t => .waits t .left
    | .got t r => if r.n = 0 then finishRight f x y t else .value t (recordValue t.cmd.plan cls r)
  else finishRight f x y s

/-- A pixel of the image view: its class, then its own record, then its neighbours (R133 to R137). -/
def finishOwn (f : Frozen) (x y : Nat) (s : State) : PixelStep :=
  let cls := s.finishClass (f.tileOf x y)
  if cls = .exclude then .value s s.cmd.plan.fill
  else
    match readRecord f x y s with
    | .waits t => .waits t .own
    | .got t r =>
      if r.n ≠ 0 then .value t (recordValue t.cmd.plan cls r)
      else if r.peak = 65535 then .value t 65535
      else finishLeft f x y t

/-- A pixel of the image view from a stage on. -/
def finishPixel (f : Frozen) (stage : PixelStage) (x y : Nat) (s : State) : PixelStep :=
  match stage with
  | .own => finishOwn f x y s
  | .left => finishLeft f x y s
  | .right => finishRight f x y s

/-- A pixel of the coverage view: the n of its record (R131). -/
def coverPixel (f : Frozen) (x y : Nat) (s : State) : PixelStep :=
  match readRecord f x y s with
  | .waits t => .waits t .own
  | .got t r => .value t r.n

/-- The pixel at an offset of a view, or none for padding (R128). -/
def pixelAt (f : Frozen) (off : Nat) : Option (Nat × Nat) :=
  let y := off / f.pitch.toNat
  let c := off % f.pitch.toNat
  if y < f.height.toNat ∧ c < 2 * f.width.toNat then some (c / 2, y) else none

/-- The value of the next lane of a read, laid out by the fields the read was taken under (R128, R129, log 38). -/
def finishLane (rd : ResultRead) (s : State) : PixelStep :=
  match pixelAt rd.frame (rd.offset / 2 * 2 + 2 * rd.lane) with
  | none => .value s 0
  | some (x, y) =>
    match rd.view with
    | .coverage => coverPixel rd.frame x y s
    | .image => finishPixel rd.frame rd.stage x y s

/-- The beats of a list of lane values, lane 0 lowest (00_scope, Beats and lanes). -/
def beatsOf : List (BitVec 16) → List (BitVec 64)
  | a :: b :: c :: d :: rest => (d ++ c ++ b ++ a) :: beatsOf rest
  | _ => []

/-- The values a byte further on: each the high byte of one value and the low byte of the next. -/
def straddle : List (BitVec 16) → List (BitVec 16)
  | a :: b :: rest => (b.extractLsb' 0 8 ++ a.extractLsb' 8 8) :: straddle (b :: rest)
  | _ => []

/-- The lanes a read covers whole or in part: one more than four to a beat where its first byte is a high byte, which only
an IDLE plan shadow's odd result base brings about (R128, R169). -/
def ResultRead.lanes (rd : ResultRead) : Nat := 4 * rd.beats + rd.offset % 2

/-- The beats of a read whose lanes all have their values (R128). -/
def ResultRead.answerBeats (rd : ResultRead) : List (BitVec 64) :=
  beatsOf (if rd.offset % 2 = 0 then rd.values else straddle rd.values)

/-- Up to `n` lanes of a result read; at the last the sectors are released and the read is answered OK, and at a wait it
stays in hand (R110, R129). -/
def finishLanes : Nat → ResultRead → State → State
  | 0, rd, s => answer .ok rd.answerBeats (s.setCache s.cache.releaseAll)
  | n + 1, rd, s =>
    match finishLane rd s with
    | .value t v => finishLanes n { rd with lane := rd.lane + 1, stage := .own, values := rd.values ++ [v] } t
    | .waits t stage => t.setInHand (some (.result { rd with stage := stage }))

/-- A result read goes on from where it stands (R129). -/
def runRead (rd : ResultRead) (s : State) : State := finishLanes (rd.lanes - rd.lane) rd s

/-- A result read is taken (R129). -/
def takeResultRead (view : View) (offset beats : Nat) (s : State) : State := 
  runRead ⟨view, s.active, offset, beats, 0, .own, []⟩ s

end Sys2Proof.Machine
end

