-- ==== Sys2Proof/Machine/Rotation.lean ====
section
/-! DEFINITION. Machine/Rotation.lean: the Rotation Unit: reference time, phase, cosine and sine, and the mapping of a
TRACK pixel (R93 to R104). -/

namespace Sys2Proof.Machine

/-! ## Cosine and sine as multiples of 2^-30 (R97; how they are worked is log 7)

The angle within an octant is held as a multiple of 2^-160, its cosine and sine are summed by their series in the same
unit, and the result is rounded once to a multiple of 2^-30. -/

/-- pi in units of 2^-160, rounded down. -/
def piScaled : Nat := 4591442807048218921384805199743311128454155024418

/-- 1 in units of 2^-160. -/
def oneScaled : Nat := 2 ^ 160

/-- 1 - z/((2k-1)(2k)) · (1 - z/((2k+1)(2k+2)) · ...), `n` terms, in units of 2^-160: with k = 1, the cosine series. -/
def cosSeries (z : Nat) : Nat → Nat → Nat
  | 0, _ => oneScaled
  | n + 1, k => oneScaled - z * cosSeries z n (k + 1) / oneScaled / ((2 * k - 1) * (2 * k))

/-- 1 - z/((2k)(2k+1)) · (1 - z/((2k+2)(2k+3)) · ...), `n` terms, in units of 2^-160: with k = 1, the sine series
without its first factor. -/
def sinSeries (z : Nat) : Nat → Nat → Nat
  | 0, _ => oneScaled
  | n + 1, k => oneScaled - z * sinSeries z n (k + 1) / oneScaled / ((2 * k) * (2 * k + 1))

/-- A value in units of 2^-160 rounded to the nearest multiple of 2^-30. -/
def roundScaled (v : Nat) : Nat := (v + 2 ^ 129) / 2 ^ 130

/-- Cosine and sine of the angle r / 2^40 turn, for r from 0 to 2^37 (an eighth of a turn). -/
def octantCosSin (r : Nat) : Nat × Nat :=
  let x := piScaled * r / 2 ^ 39
  let z := x * x / oneScaled
  (roundScaled (cosSeries z 20 1), roundScaled (x * sinSeries z 20 1 / oneScaled))

/-- Cosine and sine of the angle r / 2^40 turn, for r from 0 to 2^38 (a quarter turn). -/
def quadrantCosSin (r : Nat) : Nat × Nat :=
  if r ≤ 2 ^ 37 then octantCosSin r
  else
    let p := octantCosSin (2 ^ 38 - r)
    (p.2, p.1)

/-- The held cosine and sine of a phase, in multiples of 2^-30 (R97). -/
def cosSin (phase : BitVec 40) : Int × Int :=
  let p := quadrantCosSin (phase.toNat % 2 ^ 38)
  let a : Int := p.1
  let b : Int := p.2
  match phase.toNat / 2 ^ 38 with
  | 0 => (a, b)
  | 1 => (-b, a)
  | 2 => (-a, -b)
  | _ => (b, -a)

/-! ## The angle of a subframe -/

/-- The elapsed time from t0, read as a signed 32-bit number; 0 while the t0-set flag is clear (R94). -/
def RotationUnit.elapsed (r : RotationUnit) (tmid : BitVec 32) : Int :=
  if r.t0Set then (tmid - r.t0).toInt else 0

/-- The phase: rate · Δt modulo 2^40 (R96). -/
def phaseOf (rate : BitVec 32) (elapsed : Int) : BitVec 40 := BitVec.ofInt 40 (rate.toInt * elapsed)

/-- The Rotation Unit at the opening of a subframe: t0 set at fold index 1 while the flag is clear, then phase, cosine
and sine formed (R93, R96, R97, R98). -/
def RotationUnit.openSubframe (r : RotationUnit) (rate : BitVec 32) (index : BitVec 16) (tmid : BitVec 32) :
    RotationUnit :=
  let r := if index = 1 ∧ r.t0Set = false then { r with t0 := tmid, t0Set := true } else r
  let phase := phaseOf rate (r.elapsed tmid)
  { r with phase := phase, c := (cosSin phase).1, s := (cosSin phase).2 }

/-! ## The mapping -/

/-- The turned position across, in units of 2^-34 plane pixel: Pa + c · da - s · db (R100). -/
def turnedA (f : Frozen) (c s : Int) (a b : Nat) : Int :=
  f.poleA.toInt * 2 ^ 30 + c * (16 * (a : Int) - f.poleA.toInt) - s * (16 * (b : Int) - f.poleB.toInt)

/-- The turned position down, in units of 2^-34 plane pixel: Pb + s · da + c · db (R100). -/
def turnedB (f : Frozen) (c s : Int) (a b : Nat) : Int :=
  f.poleB.toInt * 2 ^ 30 + s * (16 * (a : Int) - f.poleA.toInt) + c * (16 * (b : Int) - f.poleB.toInt)

/-- The destination of a TRACK source pixel, or that it lies off the image (R100 to R102). -/
def destination (f : Frozen) (c s : Int) (x y : Nat) : Option (Nat × Nat) :=
  let ua := awayShift (turnedA f c s (x / 2) (y / 2)) 34
  let va := awayShift (turnedB f c s (x / 2) (y / 2)) 34
  if 0 ≤ ua ∧ 2 * ua < f.width.toNat ∧ 0 ≤ va ∧ 2 * va < f.height.toNat then
    some (2 * ua.toNat + x % 2, 2 * va.toNat + y % 2)
  else none

end Sys2Proof.Machine
end

