-- ==== Sys2Proof/Machine/Fold.lean ====
section
/-! DEFINITION. Machine/Fold.lean: the Fold Engine: the path of one sample, and the fold of a block (R73 to R90). -/

namespace Sys2Proof.Machine

/-- The ends of a sample that has found its destination record (section 4.4). -/
inductive Fate where
  | collided
  | saturated
  | trail
  | accepted
  | rejected
deriving DecidableEq, Repr

/-- The mean of accepted samples, floor(sum / n) (R85). -/
def Rec.mean (r : Rec) : Nat := r.sum.toNat / r.n.toNat

/-- The distance |x - m| (R85). -/
def Rec.distance (r : Rec) (x : BitVec 16) : Nat := ((x.toNat : Int) - (r.mean : Int)).natAbs

/-- The bound (kq · max(dev, devfloor) + 2) >> 2 (R85). -/
def Rec.bound (f : Frozen) (r : Rec) : Nat := (f.kq.toNat * max r.dev.toNat f.devfloor.toNat + 2) / 4

/-- dev + floor((d - dev) / 16), at most 65535 (R86). -/
def devAccepted (dev : BitVec 16) (d : Nat) : BitVec 16 :=
  BitVec.ofInt 16 (min 65535 ((dev.toNat : Int) + ((d : Int) - (dev.toNat : Int)) / 16))

/-- dev + max(1, dev >> 4), at most 65535 (R87). -/
def devRejected (dev : BitVec 16) : BitVec 16 := BitVec.ofNat 16 (min 65535 (dev.toNat + max 1 (dev.toNat / 16)))

/-- The greater of peak and x (R83, R84). -/
def peakWith (peak x : BitVec 16) : BitVec 16 := if peak.toNat < x.toNat then x else peak

/-- Sum and n with a sample added, both held at their greatest value (R70, R83, R86). -/
def Rec.add (r : Rec) (x : BitVec 16) : Rec := { r with sum := satAdd r.sum x.toNat, n := satAdd r.n 1 }

/-- The first accepted sample of a GROUND or TRACK record: sum becomes x and n becomes 1 (R84, log 14). -/
def Rec.first (r : Rec) (x : BitVec 16) : Rec := { r with sum := x.setWidth 32, n := 1 }

/-- An unsaturated GROUND or TRACK sample that has reached its record: peak, then warm-up, test, acceptance or
rejection (R84 to R87). -/
def Rec.clipped (f : Frozen) (r : Rec) (x : BitVec 16) : Fate × Rec :=
  let p := { r with peak := peakWith r.peak x }
  if r.n = 0 then (.accepted, p.first x)
  else if r.n.toNat < f.nwarm.toNat ∨ r.distance x ≤ r.bound f then
    (.accepted, { p.add x with dev := devAccepted r.dev (r.distance x) })
  else (.rejected, { p with dev := devRejected r.dev })

/-- An unsaturated TRAIL sample that has reached its record (R83). -/
def Rec.trailed (r : Rec) (x : BitVec 16) : Rec := { r.add x with peak := peakWith r.peak x }

/-- The corrected value max(0, r - dark) (R78). -/
def corrected (raw dark : BitVec 16) : BitVec 16 := BitVec.ofNat 16 (raw.toNat - dark.toNat)

/-- A sample is saturated when its raw value is at or above satlevel (R77). -/
def isSaturated (f : Frozen) (raw : BitVec 16) : Bool := decide (f.satlevel.toNat ≤ raw.toNat)

/-- A sample of class `cls` and fold index `k` at its destination record, from the stamp test on (R81 to R87). -/
def Rec.absorb (f : Frozen) (cls : TileClass) (k raw dark : BitVec 16) (r : Rec) : Fate × Rec :=
  if k.toNat ≤ r.stamp.toNat then (.collided, r)
  else
    let r := { r with stamp := k }
    if isSaturated f raw then (.saturated, { r with peak := 65535 })
    else if cls = .trail then (.trail, r.trailed (corrected raw dark))
    else r.clipped f (corrected raw dark)

/-- The counter of a sample's end (R90). -/
def countFate (e : Fate) (s : State) : State :=
  match e with
  | .collided => count .collided 1 s
  | .saturated => count .saturated 1 s
  | .rejected => count .rejected 1 s
  | .trail => s
  | .accepted => s

/-- The class a sample of a tile folds under: GROUND in a DARK run, else the tile's (R75). -/
def State.sampleClass (s : State) (tile : Nat) : TileClass :=
  match s.cmd.mode with
  | .dark => .ground
  | .light => s.classOf tile

/-- What the steps before the Tile Cache make of a sample: it ends, with or without a counter, or goes to a
destination record under its class with its dark value. -/
inductive Route where
  | dropped
  | hot
  | spilled
  | goes (cls : TileClass) (x y : Nat) (dark : BitVec 16)
deriving DecidableEq, Repr

/-- Where the destination step sends a sample of class `cls` at (x, y) (R79). -/
def State.routeTo (s : State) (f : Fold) (cls : TileClass) (x y : Nat) (dark : BitVec 16) : Route :=
  if cls = .track then
    match destination s.cmd.snap f.c f.s x y with
    | some (x', y') =>
      if s.classOf (s.cmd.snap.tileOf x' y') = .track then .goes cls x' y' dark else .spilled
    | none => .spilled
  else .goes cls x y dark

/-- Class routing, the hot test and the destination of the next sample of a block (R75, R76, R79). -/
def State.route (s : State) (f : Fold) : Route :=
  let cls := s.sampleClass (f.row / 32 * s.cmd.snap.tw + f.block)
  if cls = .exclude then .dropped
  else
    match f.darks.getD f.column (.level 0) with
    | .hot => .hot
    | .level dark => s.routeTo f cls (32 * f.block + f.column) f.row dark

/-- How far a sample has come: ended, or waiting at the Tile Cache. -/
inductive SampleStep where
  | ended (s : State)
  | waits (s : State)

/-- The stamp test and what follows, at a record of a sector that has served the sample's access (R81 to R88, R115). -/
def takeSample (f : Fold) (cls : TileClass) (dark : BitVec 16) (sector pos : Nat) (s : State) : State :=
  match s.cache.sector sector with
  | some x =>
    let e := (x.rec_ pos).absorb s.cmd.snap cls f.index (f.values.getD f.column 0) dark
    let s := countFate e.1 s
    if e.1 = .collided then s else s.setCache (s.cache.writeRec sector pos e.2)
  | none => s

/-- The path of the next sample of a block (section 4.4). -/
def foldSample (f : Fold) (s : State) : SampleStep :=
  match s.route f with
  | .dropped => .ended s
  | .hot => .ended (count .hotSkips 1 s)
  | .spilled => .ended (count .spilled 1 s)
  | .goes cls x y dark =>
    match s.cache.access true (s.cmd.snap.tileOf x y) (freshRec s.cmd.snap.devinit) with
    | .served c i => .ended (takeSample f cls dark i (tilePosition x y) (s.setCache c))
    | .fresh => .ended s
    | .waits c => .waits (s.setCache c)

/-- Up to `n` samples of a block in column order; the block is given back when a sample waits (R73, R74). -/
def foldSamples : Nat → Fold → State → State × Option Fold
  | 0, _, s => (s, none)
  | n + 1, f, s =>
    match foldSample f s with
    | .ended t => foldSamples n { f with column := f.column + 1 } t
    | .waits t => (t, some f)

/-- The fold of a block from its next column to its 32nd sample, or to a wait (R73). -/
def runFold (f : Fold) (s : State) : State × Option Fold := foldSamples (32 - f.column) f s

end Sys2Proof.Machine
end

