-- ==== Sys2Proof/Machine/Flags.lean ====
section
/-! DEFINITION. Machine/Flags.lean: the pending flags, the event levels, the two lines, and the clamp mask. -/

namespace Sys2Proof.Machine

/-- The level of an event, bits 2e and 2e + 1 of the event levels field (R189). -/
def Plan.level (p : Plan) (e : Event) : BitVec 2 := p.levels.extractLsb' (2 * e.bit) 2

/-- Whether an event's pending flag is set (R188). -/
def State.isRaised (s : State) (e : Event) : Bool := s.rep.raised.getLsbD e.bit

/-- The nine event kinds. -/
def allEvents : List Event :=
  [.lockAcquired, .lockLost, .commandDone, .sequenceGap, .tempOutside, .checkpointDone, .memoryFault, .runFull,
    .shortSubframe]

/-- ATTN: some pending event has level 1 (R191); low while RST_N is low (R193). -/
def State.attn (s : State) : Bool :=
  !s.resetLow && allEvents.any fun e => s.isRaised e && decide (s.cmd.plan.level e = 1)

/-- ALERT: some pending event has level 2 or 3 (R191); low while RST_N is low (R193). -/
def State.alert (s : State) : Bool :=
  !s.resetLow && allEvents.any fun e => s.isRaised e && (s.cmd.plan.level e).getLsbD 1

/-- The event clear word: the pending flag of each event whose bit is 1 is cleared. `word` holds the strobed bytes,
the others 0 (R190). -/
def clearEvents (word : BitVec 32) (s : State) : State :=
  s.setRep { s.rep with raised := s.rep.raised &&& ~~~(word.setWidth 9) }

/-- The fold parameters brought into range (R72). -/
def clampParams (f : Frozen) : Frozen :=
  { f with
    nwarm := if f.nwarm = 0 then 1 else if 16 < f.nwarm.toNat then 16 else f.nwarm
    kq := if f.kq.toNat < 4 then 4 else if 63 < f.kq.toNat then 63 else f.kq
    devfloor := if f.devfloor = 0 then 1 else if 4095 < f.devfloor.toNat then 4095 else f.devfloor
    satlevel := if f.satlevel = 0 then 1 else f.satlevel }

/-- The clamp mask: bit 0 nwarm, 1 kq, 2 devfloor, 3 satlevel, set when that parameter was clamped (R72, R185). -/
def clampMaskOf (f : Frozen) : BitVec 4 :=
  let g := clampParams f
  BitVec.ofNat 4 (bit (decide (g.nwarm ≠ f.nwarm)) + 2 * bit (decide (g.kq ≠ f.kq))
    + 4 * bit (decide (g.devfloor ≠ f.devfloor)) + 8 * bit (decide (g.satlevel ≠ f.satlevel)))

end Sys2Proof.Machine
end

