-- ==== Sys2Proof/Machine/Layouts.lean ====
section
/-! DEFINITION. Machine/Layouts.lean: the byte layouts of chapter 11: the plan page and its snoop, the snapshot image, the
report page, the run context and the library record (R154, R180, R184, R192). -/

namespace Sys2Proof.Machine

/-! ## Codes of section 11.1 -/

def RunState.code : RunState → Nat
  | .idle => 0
  | .running => 1
  | .ending => 2
  | .ended => 3

def RunMode.code : RunMode → Nat
  | .light => 0
  | .dark => 1

def Lock.code : Lock → Nat
  | .hunt => 0
  | .probe => 1
  | .locked => 2

def Disposition.code : Disposition → Nat
  | .folded => 0
  | .skipped => 1
  | .duplicate => 2
  | .stale => 3
  | .bad => 4
  | .foreign => 5
  | .mismatch => 6
  | .runFull => 7

/-- The outcome codes of R146. -/
def CommandOutcome.code : CommandOutcome → Nat
  | .done => 0
  | .badCommand => 1
  | .wrongState => 2
  | .badPlan => 3
  | .noDark => 4
  | .badSlot => 5
  | .badContext => 6
  | .emptyRun => 7
  | .memoryFault => 8
  | .aborted => 9

/-- The code of a long command (R147). -/
def LongCommand.code : LongCommand → BitVec 16
  | .endRun => 0x0002
  | .checkpoint => 0x0003
  | .resume => 0x0004
  | .commitDark => 0x0010
  | .dropDark => 0x0011
  | .adoptLibrary => 0x0012

/-- The class of a two-bit code (section 1.3). -/
def classOfCode (v : BitVec 2) : TileClass :=
  if v = 0 then .ground else if v = 1 then .track else if v = 2 then .trail else .exclude

/-! ## The plan page (section 11.2) -/

/-- A plan page byte taken into the field it lies in; a byte in no field is not read (R180, R192). -/
def Frozen.setByte (f : Frozen) (off : Nat) (b : Byte) : Frozen :=
  if off < 0x008 then f
  else if off < 0x00A then { f with width := putByte f.width (off - 0x008) b }
  else if off < 0x00C then { f with height := putByte f.height (off - 0x00A) b }
  else if off < 0x00E then { f with pitch := putByte f.pitch (off - 0x00C) b }
  else if off < 0x00F then { f with darkUse := b.getLsbD 0 }
  else if off < 0x010 then { f with oddReverse := b.getLsbD 0 }
  else if off < 0x014 then { f with captureBase := putByte f.captureBase (off - 0x010) b }
  else if off < 0x018 then { f with resultBase := putByte f.resultBase (off - 0x014) b }
  else if off < 0x01C then { f with accBase := putByte f.accBase (off - 0x018) b }
  else if off < 0x020 then { f with darkBase := putByte f.darkBase (off - 0x01C) b }
  else if off < 0x024 then { f with ckptBase := putByte f.ckptBase (off - 0x020) b }
  else if off < 0x028 then { f with runTag := putByte f.runTag (off - 0x024) b }
  else if off < 0x029 then { f with evenCode := b }
  else if off < 0x02A then { f with oddCode := b }
  else if off < 0x02B then { f with nwarm := b }
  else if off < 0x02C then { f with kq := b }
  else if off < 0x02E then { f with devfloor := putByte f.devfloor (off - 0x02C) b }
  else if off < 0x030 then { f with devinit := putByte f.devinit (off - 0x02E) b }
  else if off < 0x032 then { f with satlevel := putByte f.satlevel (off - 0x030) b }
  else if off < 0x034 then { f with span := putByte f.span (off - 0x032) b }
  else if off < 0x038 then { f with poleA := putByte f.poleA (off - 0x034) b }
  else if off < 0x03C then { f with poleB := putByte f.poleB (off - 0x038) b }
  else if off < 0x040 then { f with rate := putByte f.rate (off - 0x03C) b }
  else f

/-- A plan page byte taken into the plan shadow (R180). -/
def Plan.setByte (p : Plan) (x : Nat × Byte) : Plan :=
  let off := x.1
  let b := x.2
  if off < 0x040 then { p with frozen := p.frozen.setByte off b }
  else if off < 0x042 then { p with gain := putByte p.gain (off - 0x040) b }
  else if off < 0x044 then { p with trailGain := putByte p.trailGain (off - 0x042) b }
  else if off < 0x046 then { p with fill := putByte p.fill (off - 0x044) b }
  else if off < 0x048 then { p with hotThreshold := putByte p.hotThreshold (off - 0x046) b }
  else if off < 0x049 then { p with classPage := b }
  else if off < 0x04C then p
  else if off < 0x050 then { p with levels := putByte p.levels (off - 0x04C) b }
  else p

/-- The frozen fields at their offsets from plan page byte 0x008: the snapshot image of 56 bytes (section 11.2). -/
def Frozen.fields (f : Frozen) : List Field :=
  [⟨0, 2, f.width.toNat⟩, ⟨2, 2, f.height.toNat⟩, ⟨4, 2, f.pitch.toNat⟩, ⟨6, 1, bit f.darkUse⟩,
    ⟨7, 1, bit f.oddReverse⟩, ⟨8, 4, f.captureBase.toNat⟩, ⟨12, 4, f.resultBase.toNat⟩, ⟨16, 4, f.accBase.toNat⟩,
    ⟨20, 4, f.darkBase.toNat⟩, ⟨24, 4, f.ckptBase.toNat⟩, ⟨28, 4, f.runTag.toNat⟩, ⟨32, 1, f.evenCode.toNat⟩,
    ⟨33, 1, f.oddCode.toNat⟩, ⟨34, 1, f.nwarm.toNat⟩, ⟨35, 1, f.kq.toNat⟩, ⟨36, 2, f.devfloor.toNat⟩,
    ⟨38, 2, f.devinit.toNat⟩, ⟨40, 2, f.satlevel.toNat⟩, ⟨42, 2, f.span.toNat⟩, ⟨44, 4, f.poleA.toNat⟩,
    ⟨48, 4, f.poleB.toNat⟩, ⟨52, 4, f.rate.toNat⟩]

/-- The frozen fields a snapshot image at byte `o` of an image holds; flag bytes are set when not 0 (R161, R192). -/
def Frozen.ofImage (image o : Nat) : Frozen where
  width := BitVec.ofNat 16 (fieldAt image o 2)
  height := BitVec.ofNat 16 (fieldAt image (o + 2) 2)
  pitch := BitVec.ofNat 16 (fieldAt image (o + 4) 2)
  darkUse := decide (fieldAt image (o + 6) 1 ≠ 0)
  oddReverse := decide (fieldAt image (o + 7) 1 ≠ 0)
  captureBase := BitVec.ofNat 32 (fieldAt image (o + 8) 4)
  resultBase := BitVec.ofNat 32 (fieldAt image (o + 12) 4)
  accBase := BitVec.ofNat 32 (fieldAt image (o + 16) 4)
  darkBase := BitVec.ofNat 32 (fieldAt image (o + 20) 4)
  ckptBase := BitVec.ofNat 32 (fieldAt image (o + 24) 4)
  runTag := BitVec.ofNat 32 (fieldAt image (o + 28) 4)
  evenCode := BitVec.ofNat 8 (fieldAt image (o + 32) 1)
  oddCode := BitVec.ofNat 8 (fieldAt image (o + 33) 1)
  nwarm := BitVec.ofNat 8 (fieldAt image (o + 34) 1)
  kq := BitVec.ofNat 8 (fieldAt image (o + 35) 1)
  devfloor := BitVec.ofNat 16 (fieldAt image (o + 36) 2)
  devinit := BitVec.ofNat 16 (fieldAt image (o + 38) 2)
  satlevel := BitVec.ofNat 16 (fieldAt image (o + 40) 2)
  span := BitVec.ofNat 16 (fieldAt image (o + 42) 2)
  poleA := BitVec.ofNat 32 (fieldAt image (o + 44) 4)
  poleB := BitVec.ofNat 32 (fieldAt image (o + 48) 4)
  rate := BitVec.ofNat 32 (fieldAt image (o + 52) 4)

/-! ## The library record (R64, section 11.4) -/

/-- The fields of a slot in the library entry layout, state and check word apart. -/
def Slot.fields (x : Slot) : List Field :=
  [⟨2, 2, x.temperature.toNat⟩, ⟨4, 4, x.eref.toNat⟩, ⟨8, 2, x.frames.toNat⟩, ⟨10, 2, x.width.toNat⟩,
    ⟨12, 2, x.height.toNat⟩, ⟨16, 4, x.base.toNat⟩]

/-- A slot's state code: 1 BUILDING, 2 VALID (section 11.1). -/
def Slot.code (x : Slot) : Nat := if x.building then 1 else 2

/-- The library entry of a slot: a VALID slot with its fields and check word, any other as EMPTY, all 0 (R64). -/
def entryFields (slot : Option Slot) : List Field :=
  match slot with
  | some x =>
    if x.building then []
    else
      let fs := ⟨0, 1, 2⟩ :: x.fields
      fs ++ [⟨30, 2, checkWord (wordSum 16 (imageOf fs))⟩]
  | none => []

/-- The 128 bytes of the library record (R64). -/
def DarkUnit.libraryImage (d : DarkUnit) : Chunk :=
  BitVec.ofNat 1024 (imageOf ((List.range 4).flatMap fun i => shiftFields (32 * i) (entryFields (d.slot i))))

/-- The slot an entry of a library record makes: VALID when its state byte is 2 and its words sum to 0, else EMPTY
(R66, R192). -/
def slotOfEntry (image i : Nat) : Option Slot :=
  let e := image / 2 ^ (256 * i)
  if fieldAt e 0 1 = 2 ∧ wordSum 16 e % 65536 = 0 then
    some ⟨false, BitVec.ofNat 16 (fieldAt e 2 2), BitVec.ofNat 32 (fieldAt e 4 4), BitVec.ofNat 16 (fieldAt e 8 2),
      BitVec.ofNat 16 (fieldAt e 10 2), BitVec.ofNat 16 (fieldAt e 12 2), BitVec.ofNat 32 (fieldAt e 16 4)⟩
  else none

/-- The slot table an ADOPT_LIBRARY read gives (R66). -/
def slotsOfLibrary (image : Nat) : List (Nat × Option Slot) :=
  (List.range 4).foldl (fun t i => Table.set none t i (slotOfEntry image i)) []

/-! ## The report page (R184, section 11.3) -/

/-- The fields of a history entry; a position holding no entry is all 0. -/
def historyFields (e : Option HistoryEntry) : List Field :=
  match e with
  | none => []
  | some h =>
    [⟨0, 2, h.seq.toNat⟩, ⟨2, 1, h.disposition.code⟩,
      ⟨3, 1, 1 + 2 * bit h.isOpen + 4 * bit h.slotA.isSome + 8 * bit h.slotB.isSome⟩,
      ⟨4, 2, h.temperature.toNat⟩, ⟨6, 2, h.index.toNat⟩, ⟨8, 4, h.exposure.toNat⟩, ⟨12, 4, h.timestamp.toNat⟩,
      ⟨16, 1, h.slotA.getD 0⟩, ⟨17, 1, h.slotB.getD 0⟩, ⟨18, 1, h.weight.toNat⟩, ⟨20, 2, h.phase.toNat⟩,
      ⟨24, 4, h.landed % 2 ^ 20⟩]

/-- A slot in the library entry layout with check word 0, BUILDING carrying state 1 (section 11.3). -/
def slotReportFields (slot : Option Slot) : List Field :=
  match slot with
  | some x => ⟨0, 1, x.code⟩ :: x.fields
  | none => []

/-- The event levels as the report page shows them: bits 0 to 17 as last written, the others a free value (log 8). -/
def Plan.shownLevels (p : Plan) : BitVec 32 := Config.unreadLevelBits p.levels ++ p.levels.extractLsb' 0 18

/-- The 28 counters from an offset on (section 11.3). -/
def counterFields (off : Nat) (counters : List (Nat × BitVec 32)) : List Field :=
  (List.range 28).map fun i => ⟨off + 4 * i, 4, (Table.get 0 counters i).toNat⟩

/-- What the last-command record shows of its outcome (R146). -/
def LastCommand.outcomeCode (r : LastCommand) : Nat :=
  match r.outcome with
  | some o => o.code
  | none => 0xFFFF

/-- The report page (R184), each value at its offset; bytes no value uses read as 0. -/
def State.reportFields (s : State) : List Field :=
  [⟨0x000, 1, bit s.cmd.inFlight.isSome⟩, ⟨0x001, 1, s.cmd.run.code⟩, ⟨0x002, 1, s.cmd.mode.code⟩,
    ⟨0x003, 1, s.hdr.lock.code⟩, ⟨0x004, 2, s.cmd.record.code.toNat⟩, ⟨0x006, 2, s.cmd.record.arg.toNat⟩,
    ⟨0x008, 2, s.cmd.record.outcomeCode⟩, ⟨0x00A, 2, s.cmd.record.aborted.toNat⟩, ⟨0x00C, 2, s.cmd.taken.toNat⟩,
    ⟨0x00E, 2, s.cmd.lastRefused.toNat⟩, ⟨0x010, 4, s.cmd.progress.toNat⟩, ⟨0x014, 2, s.rep.raised.toNat⟩,
    ⟨0x016, 1, bit s.attn + 2 * bit s.alert⟩, ⟨0x017, 1, s.rep.clampMask.toNat⟩, ⟨0x018, 2, s.hdr.last.toNat⟩,
    ⟨0x01A, 2, s.hdr.folded.toNat⟩, ⟨0x01C, 2, (s.hdr.opened.elim 0 fun o => o.index.toNat)⟩,
    ⟨0x01E, 1, s.hdr.badRun⟩, ⟨0x020, 1, s.hdr.head.toNat⟩, ⟨0x021, 1, s.hdr.count⟩, ⟨0x022, 1, bit s.rot.t0Set⟩,
    ⟨0x023, 1, bit s.dark.erefSet⟩, ⟨0x024, 4, s.rot.t0.toNat⟩, ⟨0x028, 4, s.dark.eref.toNat⟩,
    ⟨0x02C, 2, s.cache.firstFillError.getD 0⟩, ⟨0x02E, 1, bit s.cache.firstFillError.isSome⟩,
    ⟨0x030, 8, s.dark.tempSum.toNat⟩, ⟨0x038, 2, s.cmd.plan.gain.toNat⟩, ⟨0x03A, 2, s.cmd.plan.trailGain.toNat⟩,
    ⟨0x03C, 2, s.cmd.plan.fill.toNat⟩, ⟨0x03E, 2, s.cmd.plan.hotThreshold.toNat⟩,
    ⟨0x040, 1, s.cmd.plan.classPage.toNat⟩, ⟨0x044, 4, s.cmd.plan.shownLevels.toNat⟩,
    ⟨0x048, 4, s.rep.hotMarked.toNat⟩, ⟨0x04C, 4, s.rep.uncovered.toNat⟩]
    ++ counterFields 0x050 s.rep.counters
    ++ shiftFields 0x0C0 s.cmd.snap.fields
    ++ ((List.range 4).flatMap fun i => shiftFields (0x100 + 32 * i) (slotReportFields (s.dark.slot i)))
    ++ ((List.range 16).flatMap fun i => shiftFields (0x200 + 32 * i) (historyFields (Table.get none s.hdr.history i)))

/-- The beats of a report page read, from one capture of every value (R183). -/
def State.reportBeats (s : State) (off n : Nat) : List (BitVec 64) :=
  let image := imageOf s.reportFields
  (List.range n).map fun i => BitVec.ofNat 64 (fieldAt image (off + 8 * i) 8)

/-! ## The run context (R154, section 11.4) -/

/-- The touched marks as one number, tile i's mark in bit i. -/
def touchedImage (touched : List (Nat × Bool)) : Nat :=
  touched.foldr (fun p rest => (if p.2 ∧ p.1 < 24576 then 2 ^ p.1 else 0) + rest) 0

/-- The fields of the run context, check word apart (R154). -/
def State.contextFields (s : State) : List Field :=
  [⟨0, 4, 0x4E58434B⟩, ⟨4, 2, 1⟩, ⟨8, 1, s.cmd.mode.code⟩, ⟨9, 1, bit s.rot.t0Set⟩, ⟨10, 1, bit s.dark.erefSet⟩,
    ⟨12, 4, if s.rot.t0Set then s.rot.t0.toNat else 0⟩, ⟨16, 4, if s.dark.erefSet then s.dark.eref.toNat else 0⟩,
    ⟨20, 2, s.hdr.last.toNat⟩, ⟨22, 2, s.hdr.folded.toNat⟩, ⟨24, 8, s.dark.tempSum.toNat⟩]
    ++ shiftFields 32 s.cmd.snap.fields
    ++ counterFields 96 s.rep.counters
    ++ [⟨208, 4, s.rep.hotMarked.toNat⟩, ⟨212, 4, s.rep.uncovered.toNat⟩,
      ⟨1024, 3072, touchedImage s.cache.touched⟩]

/-- The finished record of 4096 bytes with its check word (R154). -/
def State.contextImage (s : State) : Nat :=
  let image := imageOf s.contextFields
  imageOf (⟨6, 2, checkWord (wordSum 2048 image)⟩ :: s.contextFields)

/-- The 32 parts of the record (R155). -/
def State.contextParts (s : State) : List Chunk :=
  let image := s.contextImage
  (List.range 32).map (partOf image)

/-- The part a step of a context write sends: step 0 part 0 with magic 0, steps 1 to 31 parts 1 to 31, step 32 part 0
with its magic (R155). -/
def contextStepPart (parts : List Chunk) (step : Nat) : Chunk :=
  if step = 0 then (parts.getD 0 0 >>> 32) <<< 32
  else if step = 32 then parts.getD 0 0
  else parts.getD step 0

/-- The offset in the record of the part a step of a context write sends (R155). -/
def contextStepOffset (step : Nat) : Nat := if step = 32 then 0 else 128 * step

/-- A record passes the checks of R161 but for the dark test. -/
def contextUsable (planBase base : BitVec 32) (image : Nat) : Bool :=
  decide (fieldAt image 0 4 = 0x4E58434B) && decide (fieldAt image 4 2 = 1) && decide (wordSum 2048 image % 65536 = 0)
    && decide (fieldAt image 8 1 ≤ 1) && decide (fieldAt image 56 4 = base.toNat)
    && (Frozen.ofImage image 32).usable planBase

/-- The run mode a record holds (R192). -/
def contextMode (image : Nat) : RunMode := if fieldAt image 8 1 = 0 then .light else .dark

/-- The counters a record holds. -/
def contextCounters (image : Nat) : List (Nat × BitVec 32) :=
  (List.range 28).foldl (fun t i => Table.set 0 t i (BitVec.ofNat 32 (fieldAt image (96 + 4 * i) 4))) []

/-- The touched marks 0 to T - 1 a record holds; marks T and above are clear (R111, R162). -/
def contextTouched (image tiles : Nat) : List (Nat × Bool) :=
  ((List.range (min tiles 24576)).filter fun i => decide (image / 2 ^ (8192 + i) % 2 = 1)).map fun i => (i, true)

end Sys2Proof.Machine
end

