-- ==== Sys2Proof/Machine/Lock.lean ====
section
/-! DEFINITION. Machine/Lock.lean: the Header Unit: header fields, verdicts, the lock machine, dispositions, the history
and the opening and closing of subframes (R19 to R41). -/

namespace Sys2Proof.Machine

/-! ## The header line (R19, R20) -/

/-- A byte of the assembly buffer. -/
def HeaderUnit.byte (h : HeaderUnit) (i : Nat) : Byte := Table.get 0 h.line i

/-- The 16-bit word at an even offset of the line, little-endian. -/
def HeaderUnit.half (h : HeaderUnit) (i : Nat) : BitVec 16 := h.byte (i + 1) ++ h.byte i

/-- The 32-bit word at an offset of the line, little-endian. -/
def HeaderUnit.word (h : HeaderUnit) (i : Nat) : BitVec 32 := h.half (i + 2) ++ h.half i

def HeaderUnit.marker (h : HeaderUnit) : BitVec 32 := h.word 0
def HeaderUnit.seq (h : HeaderUnit) : BitVec 16 := h.half 4
def HeaderUnit.temperature (h : HeaderUnit) : BitVec 16 := h.half 6
def HeaderUnit.exposure (h : HeaderUnit) : BitVec 32 := h.word 8
def HeaderUnit.timestamp (h : HeaderUnit) : BitVec 32 := h.word 12
def HeaderUnit.runTag (h : HeaderUnit) : BitVec 32 := h.word 16

/-- The sum of the 32 words of the line. -/
def HeaderUnit.lineSum (h : HeaderUnit) : Nat := ((List.range 32).map fun i => (h.half (2 * i)).toNat).sum

/-- A byte placed in the assembly buffer, its mark set (R20). -/
def HeaderUnit.placeByte (h : HeaderUnit) (p : Nat × Byte) : HeaderUnit :=
  { h with line := Table.set 0 h.line p.1 p.2, received := h.received ||| BitVec.twoPow 64 p.1 }

/-- The header-line bytes of a burst placed; bytes at offset 64 and above are discarded (R8, R20). -/
def HeaderUnit.placeBytes (h : HeaderUnit) (bytes : List (Nat × Byte)) : HeaderUnit :=
  (bytes.filter fun p => decide (p.1 < 64)).foldl HeaderUnit.placeByte h

/-- Every mark is set (R20). -/
def HeaderUnit.complete (h : HeaderUnit) : Bool := decide (h.received = BitVec.allOnes 64)

/-! ## Verdict and lock machine (R23 to R30) -/

/-- The verdict of an evaluation (R23). -/
inductive Verdict where
  | bad
  | foreign
  | valid
deriving DecidableEq, Repr

/-- The verdict on the header in the assembly buffer (R23). -/
def HeaderUnit.verdict (h : HeaderUnit) (runTag : BitVec 32) : Verdict :=
  if h.marker ≠ 0x7E51A3D2 ∨ h.lineSum % 65536 ≠ 0 ∨ h.exposure = 0 then .bad
  else if h.runTag ≠ runTag then .foreign
  else .valid

/-- What the lock machine makes of a header: the lock, last sequence and bad-run count after it, its disposition before
R30, how many subframes it shows missing, and whether lock was acquired or lost. -/
structure LockMove where
  lock : Lock
  last : BitVec 16
  badRun : Nat
  disposition : Disposition
  missing : Nat := 0
  acquired : Bool := false
  lost : Bool := false
deriving DecidableEq, Repr

/-- The lock machine (R24, R26 to R29). -/
def lockMove (lock : Lock) (last : BitVec 16) (badRun : Nat) (v : Verdict) (seq : BitVec 16) : LockMove :=
  let d := (seq - last).toNat
  match lock, v with
  | .hunt, .bad => ⟨.hunt, last, badRun, .bad, 0, false, false⟩
  | .hunt, .foreign => ⟨.hunt, last, badRun, .foreign, 0, false, false⟩
  | .hunt, .valid => ⟨.probe, seq, badRun, .skipped, 0, false, false⟩
  | .probe, .bad => ⟨.hunt, last, badRun, .bad, 0, false, false⟩
  | .probe, .foreign => ⟨.probe, last, badRun, .foreign, 0, false, false⟩
  | .probe, .valid =>
    if d = 1 then ⟨.locked, seq, 0, .folded, 0, true, false⟩ else ⟨.probe, seq, badRun, .skipped, 0, false, false⟩
  | .locked, .bad =>
    if badRun + 1 = 3 then ⟨.hunt, last, 0, .bad, 0, false, true⟩ else ⟨.locked, last, badRun + 1, .bad, 0, false, false⟩
  | .locked, .foreign => ⟨.locked, last, badRun, .foreign, 0, false, false⟩
  | .locked, .valid =>
    if d = 0 then ⟨.locked, last, 0, .duplicate, 0, false, false⟩
    else if d ≤ 32768 then ⟨.locked, seq, 0, .folded, d - 1, false, false⟩
    else ⟨.locked, last, badRun, .stale, 0, false, false⟩

/-- The disposition after the two cases of R30. -/
def finalDisposition (s : State) (d : Disposition) : Disposition :=
  if d ≠ .folded then d
  else if s.hdr.folded = 65535 then .runFull
  else if s.cmd.mode = .dark ∧ s.dark.erefSet = true ∧ s.hdr.exposure ≠ s.dark.eref then .mismatch
  else .folded

/-- The counter of a disposition; a FOLDED header has none (R31). -/
def dispositionCounter : Disposition → Option Counter
  | .folded => none
  | .skipped => some .skipped
  | .duplicate => some .duplicate
  | .stale => some .stale
  | .bad => some .bad
  | .foreign => some .foreign
  | .mismatch => some .mismatch
  | .runFull => some .runFull

/-- The counters and events of a header's disposition (R28 to R31). -/
def countHeader (m : LockMove) (d : Disposition) (s : State) : State :=
  let s := count .headersCompleted 1 s
  let s := match dispositionCounter d with
    | some c => count c 1 s
    | none => s
  let s := if m.missing = 0 then s else raise .sequenceGap (count .missingSubframes m.missing s)
  let s := if m.acquired then raise .lockAcquired s else s
  let s := if m.lost then raise .lockLost s else s
  if d = .runFull then raise .runFull s else s

/-! ## The history (R39 to R41) -/

/-- An entry written at the head of the ring (R39). -/
def HeaderUnit.addEntry (h : HeaderUnit) (e : HistoryEntry) : HeaderUnit :=
  { h with
    history := Table.set none h.history h.head.toNat (some e)
    head := h.head + 1
    count := min 16 (h.count + 1) }

/-- The ring emptied (R39). -/
def HeaderUnit.emptyHistory (h : HeaderUnit) : HeaderUnit := { h with history := [], head := 0, count := 0 }

/-- The entry of a header that is not FOLDED (R40). -/
def plainEntry (h : HeaderUnit) (d : Disposition) : HistoryEntry where
  seq := h.seq
  disposition := d
  isOpen := false
  slotA := none
  slotB := none
  temperature := h.temperature
  index := 0
  exposure := h.exposure
  timestamp := h.timestamp
  weight := 0
  phase := 0
  landed := 0

/-- The entry of a FOLDED header (R40). -/
def openEntry (h : HeaderUnit) (sub : Subframe) : HistoryEntry :=
  { plainEntry h .folded with
    isOpen := true
    slotA := sub.choice.a.map (·.slot)
    slotB := sub.choice.b.map (·.slot)
    index := sub.index
    weight := sub.choice.weight
    phase := sub.phase.extractLsb' 24 16 }

/-! ## Opening and closing (R32 to R34) -/

/-- The middle of an exposure, modulo 2^32 (section 2.5). -/
def midExposure (timestamp exposure : BitVec 32) : BitVec 32 := timestamp + exposure / 2

/-- The context of a subframe that opens (section 2.5). -/
def newSubframe (h : HeaderUnit) (index : BitVec 16) (ch : DarkChoice) (rot : RotationUnit) : Subframe where
  index := index
  temperature := h.temperature
  exposure := h.exposure
  tmid := midExposure h.timestamp h.exposure
  choice := ch
  phase := rot.phase
  c := rot.c
  s := rot.s
  landed := 0
  position := h.head

/-- A FOLDED header opens a subframe (R32): the folded count, t0, the reference exposure and temperature sum of a DARK
run, the dark choice with TEMP_OUTSIDE (R47), the rotation, the landing map and the history entry. -/
def openSubframe (s : State) : State :=
  let h := s.hdr
  let index := h.folded + 1
  let rot := s.rot.openSubframe s.cmd.snap.rate index (midExposure h.timestamp h.exposure)
  let dark := if s.cmd.mode = .dark then s.dark.openDark h.temperature h.exposure else s.dark
  let ch := s.darkChoice h.temperature h.exposure
  let sub := newSubframe h index ch.1 rot
  let hdr := { h.addEntry (openEntry h sub) with folded := index, landing := [], opened := some sub }
  let s := ((s.setHdr hdr).setDark dark).setRot rot
  if ch.2 then raise .tempOutside (count .temperatureOutside 1 s) else s

/-- The open subframe's history entry closed with its blocks landed, and its context removed (R33, R41). -/
def HeaderUnit.closeSubframe (h : HeaderUnit) : HeaderUnit :=
  match h.opened with
  | none => h
  | some sub =>
    let i := sub.position.toNat
    let history := match Table.get none h.history i with
      | some e => Table.set none h.history i (some { e with isOpen := false, landed := sub.landed })
      | none => h.history
    { h with history := history, opened := none }

/-- A close by a header completion or by END, with the short-subframe test (R33, R34). -/
def closeCounted (s : State) : State :=
  match s.hdr.opened with
  | none => s
  | some sub =>
    let t := s.setHdr s.hdr.closeSubframe
    if sub.landed < s.cmd.snap.blocks then raise .shortSubframe (count .shortSubframes 1 t) else t

/-- The header in the assembly buffer is evaluated, given its disposition, counted and entered in the history; a FOLDED
one opens a subframe (R22, third step). -/
def evaluateHeader (s : State) : State :=
  let h := s.hdr
  let m := lockMove h.lock h.last h.badRun (h.verdict s.cmd.snap.runTag) h.seq
  let d := finalDisposition s m.disposition
  let s := countHeader m d (s.setHdr { h with lock := m.lock, last := m.last, badRun := m.badRun })
  if d = .folded then openSubframe s else s.setHdr (s.hdr.addEntry (plainEntry h d))

end Sys2Proof.Machine
end

