-- ==== Sys2Proof/Machine/Saves.lean ====
section
/-! DEFINITION. Machine/Saves.lean: the flush and context write of END, CHECKPOINT and the automatic checkpoint, and the
writing of a command's outcome (R123, R124, R146, R155 to R159). -/

namespace Sys2Proof.Machine

/-! ## Outcomes (R146) -/

/-- The command taken or in flight ends with an outcome: the record takes it, COMMAND_DONE is raised and the unit is
READY (R145, R146). -/
def finishCommand (o : CommandOutcome) (s : State) : State :=
  raise .commandDone
    (s.setCmd { s.cmd with inFlight := none, record := { s.cmd.record with outcome := some o } })

/-- A command in flight ends after an M-link error: the event and the outcome (R61, R62, R65, R67, R160). -/
def finishFaulted (s : State) : State := finishCommand .memoryFault (raise .memoryFault s)

/-! ## The flush (R123, R124) -/

/-- The flush has passed sector 31: it ends, and the run context as it now stands begins to be written (R124, R154). -/
def endFlush (lost : Bool) (s : State) : State :=
  (s.setCache { s.cache with flush := none }).setBulk
    (some (.contextWrite s.cmd.snap.ckptBase s.contextParts lost 0 false))

/-- The flush goes on from sector `i`: the next DIRTY sector is written back, or the flush ends (R123). -/
def flushFrom (i : Nat) (lost : Bool) (s : State) : State :=
  match s.cache.nextDirty i with
  | some j => s.setCache ({ s.cache with flush := some ⟨j, lost⟩ }.beginWriteback j true)
  | none => endFlush lost s

/-- The Command Unit asks for a flush (R156, R158, R159). -/
def beginSave (who : Saver) (s : State) : State := flushFrom 0 false (s.setCmd { s.cmd with saving := some who })

/-- How the flush goes on after a writeback: to the next sector, or to the same one again after a first failure
(R123). -/
def flushNext (w : Writeback) (lost : Bool) (e : WritebackEnd) (s : State) : State :=
  match e with
  | .written => flushFrom (w.sector + 1) lost s
  | .failedOnce => s.setCache (s.cache.beginWriteback w.sector true)
  | .lost => flushFrom (w.sector + 1) true s

/-! ## The end of a context write (R155, R157 to R159) -/

/-- A checkpoint's counter and event (R158). -/
def countCheckpoint (good : Bool) (s : State) : State :=
  if good then raise .checkpointDone (count .checkpoints 1 s) else count .checkpointFailures 1 s

/-- The outcome of a flush and context write (R157, R158). -/
def saveOutcome (good : Bool) : CommandOutcome := if good then .done else .memoryFault

/-- The context write has ended; `good` when it ended without error and its flush lost no tile. -/
def finishSave (good : Bool) (s : State) : State :=
  let who := s.cmd.saving
  let s := (s.setBulk none).setCmd { s.cmd with saving := none }
  match who with
  | some .endRun => finishCommand (saveOutcome good) (s.setCmd { s.cmd with run := .ended })
  | some .checkpoint => finishCommand (saveOutcome good) (countCheckpoint good s)
  | some .automatic => answer .ok [] (evaluateHeader (countCheckpoint good s))
  | none => s

end Sys2Proof.Machine
end

