-- ==== Sys2Proof/Machine/Capture.lean ====
section
/-! DEFINITION. Machine/Capture.lean: the capture window's writes: header-line bytes, image bursts, landing, and the work
on the request in hand (R8 to R22, R35 to R38, R50, R51, R73, R74). -/

namespace Sys2Proof.Machine

/-! ## Header page (R8, R20 to R22, R35) -/

/-- The subframe that closes starts an automatic checkpoint (R35). -/
def State.checkpointDue (s : State) (sub : Subframe) : Bool :=
  decide (s.cmd.snap.span ≠ 0 ∧ sub.index.toNat % s.cmd.snap.span.toNat = 0)

/-- A header has completed, its marks cleared: dropped unless the run is RUNNING, else the three steps of R22. -/
def completeHeader (s : State) : State :=
  if s.cmd.run ≠ .running then answer .ok [] s
  else
    match s.hdr.opened with
    | none => answer .ok [] (evaluateHeader s)
    | some sub =>
      if s.checkpointDue sub then beginSave .automatic ((closeCounted s).setInHand (some .header))
      else answer .ok [] (evaluateHeader (closeCounted s))

/-- A write burst to the header page, as the strobed bytes with their offsets (R8, R20). -/
def takeHeaderBytes (bytes : List (Nat × Byte)) (s : State) : State :=
  let h := s.hdr.placeBytes bytes
  if h.complete then completeHeader (s.setHdr { h with received := 0 }) else answer .ok [] (s.setHdr h)

/-! ## Image rows (R9 to R13, R37, R38) -/

/-- A well-formed image burst: 8 or 16 beats, a start at a multiple of 64, every strobe set (R10). -/
def wellFormedBurst (addr : Nat) (beats : List Beat) : Bool :=
  (decide (beats.length = 8) || decide (beats.length = 16)) && decide (addr % 64 = 0)
    && (beats.all fun b => decide (b.strobes = 0xFF))

/-- The lane that carries a pixel offset under a lane code (R13). -/
def laneOf (code : BitVec 8) (o : Nat) : Nat :=
  match (List.range 4).find? fun l => decide (laneOffset code l = o) with
  | some l => l
  | none => 0

/-- The place of a beat group in block `j` (R12). -/
def placeOf (f : Frozen) (j group : Nat) : Nat := if j % 2 = 1 ∧ f.oddReverse = true then 7 - group else group

/-- The lane code block `j` is decoded under (R13). -/
def blockCode (f : Frozen) (j : Nat) : BitVec 8 := if j % 2 = 1 then f.oddCode else f.evenCode

/-- The 32 values of a block in column order (R12, R13). -/
def decodeBlock (f : Frozen) (j : Nat) (beats : List Beat) : List (BitVec 16) :=
  (List.range 32).map fun col =>
    (beats.getD (placeOf f j (col / 4)) ⟨0, 0⟩).data.extractLsb' (16 * laneOf (blockCode f j) (col % 4)) 16

/-- A block lands in the open subframe: marked, counted, and on its way (R37). -/
def landBlock (sub : Subframe) (y j : Nat) (beats : List Beat) (s : State) : State × Option Block :=
  let f := s.cmd.snap
  let hdr := { s.hdr with
    landing := Table.set false s.hdr.landing (y * f.tw + j) true
    opened := some { sub with landed := sub.landed + 1 } }
  (count .blocksLanded 1 (s.setHdr hdr), some (newBlock f s.dark sub.choice y j (decodeBlock f j beats)))

/-- One 64-byte unit of an image burst at offset `off` of the image rows: padding, an idle block, a repeat, or a block
that lands (R11, R37, R38). -/
def takeUnit (off : Nat) (beats : List Beat) (s : State) : State × Option Block :=
  let f := s.active
  let y := off / f.pitch.toNat
  let c := off % f.pitch.toNat
  if 2 * f.width.toNat ≤ c then (s, none)
  else
    match s.hdr.opened with
    | none => (count .idleCaptureBeats 8 s, none)
    | some sub =>
      if Table.get false s.hdr.landing (y * f.tw + c / 64) then (count .repeatBlocks 1 s, none)
      else landBlock sub y (c / 64) beats s

/-- The units of a well-formed burst in address order (R11). -/
def takeUnits (off : Nat) (beats : List Beat) (s : State) : State × List Block :=
  let p := takeUnit off (beats.take 8) s
  if beats.length = 8 then (p.1, p.2.toList)
  else
    let q := takeUnit (off + 64) (beats.drop 8) p.1
    (q.1, p.2.toList ++ q.2.toList)

/-! ## The capture burst in hand (R50, R51, R73, R74) -/

/-- A block whose fetches have all ended, some in error. -/
def Block.isLost (b : Block) : Bool := b.fetchesOver && b.fetchFailed

/-- The blocks of a burst that have lost a fetch are discarded: one count each, and MEMORY_FAULT (R51, log 11). -/
def discardLost (blocks : List Block) (s : State) : State :=
  let n := (blocks.filter Block.isLost).length
  if n = 0 then s else raise .memoryFault (count .darkReadErrors n s)

/-- A block as the Fold Engine takes it (R73). -/
def Block.toFold (b : Block) (sub : Option Subframe) : Fold where
  row := b.row
  block := b.block
  values := b.values
  darks := b.darks
  index := sub.elim 0 (·.index)
  c := sub.elim 0 (·.c)
  s := sub.elim 0 (·.s)
  column := 0

/-- The blocks of a burst are folded in order, each once its fetches have ended; the burst is answered OK after the last
and its sectors are released (R11, R50, R73, R110). -/
def foldBlocks : List Block → State → State
  | [], s => answer .ok [] (s.setCache s.cache.releaseAll)
  | b :: rest, s =>
    if b.fetchesOver then
      match runFold (b.toFold s.hdr.opened) s with
      | (t, none) => foldBlocks rest t
      | (t, some f) => t.setInHand (some (.capture ⟨some f, rest⟩))
    else s.setInHand (some (.capture ⟨none, b :: rest⟩))

/-- A capture burst goes on from where it stands (R50, R51, R74). -/
def runCapture (cap : Capture) (s : State) : State :=
  let s := discardLost cap.blocks s
  let blocks := cap.blocks.filter fun b => !b.isLost
  match cap.fold with
  | none => foldBlocks blocks s
  | some f =>
    match runFold f s with
    | (t, none) => foldBlocks blocks t
    | (t, some g) => t.setInHand (some (.capture ⟨some g, blocks⟩))

/-- A write burst to the image rows, `off` bytes into them (R10, R11). -/
def takeImageBurst (addr off : Nat) (beats : List Beat) (s : State) : State :=
  if wellFormedBurst addr beats then
    let p := takeUnits off beats s
    runCapture ⟨none, p.2⟩ p.1
  else answer .ok [] (count .malformedBursts 1 s)

/-- A capture window write (R8 to R11). -/
def takeCaptureWrite (addr : BitVec 32) (beats : List Beat) (s : State) : State :=
  let off := addr.toNat - s.active.captureBase.toNat
  if off < 4096 then takeHeaderBytes (strobedBytes off beats) s else takeImageBurst addr.toNat (off - 4096) beats s

/-! ## A waiting request goes on -/

/-- A fill or an eviction writeback is in progress (R118, R120). -/
def TileCache.isBusy (c : TileCache) : Bool :=
  c.fill.isSome || (c.writeback.any fun w => !w.forFlush)

/-- The request in hand while a fill or an eviction serves its access: a block whose fetches have meanwhile all ended, some
in error, is discarded now (R51, log 11). -/
def busyHand (s : State) : State :=
  match s.inHand with
  | some (.capture cap) =>
    (discardLost cap.blocks s).setInHand (some (.capture { cap with blocks := cap.blocks.filter fun b => !b.isLost }))
  | some (.result _) => s
  | some (.through _ _) => s
  | some .header => s
  | none => s

/-- The request in hand makes the access it waits with again, unless a fill or an eviction serves it now (R116, R117,
log 17). -/
def resumeHand (s : State) : State :=
  if s.cache.isBusy then busyHand s
  else
    match s.inHand with
    | some (.capture cap) => runCapture cap s
    | some (.result rd) => runRead rd s
    | some (.through _ _) => s
    | some .header => s
    | none => s

end Sys2Proof.Machine
end

