-- ==== Sys2Proof/Machine/Bulk.lean ====
section
/-! DEFINITION. Machine/Bulk.lean: ABORT's effects and stop, the COMMIT_DARK walk, and the ends of the Bulk Mover's
transactions (R56 to R67, R155, R160 to R164). -/

namespace Sys2Proof.Machine

/-! ## ABORT's effects and stop (R163, R164) -/

/-- The slot table with every BUILDING slot EMPTY (R63). -/
def DarkUnit.dropBuilding (d : DarkUnit) : DarkUnit :=
  { d with slots := d.slots.filter fun p => p.2.all fun x => !x.building }

/-- The Header Unit after ABORT (R20, R25, R33, R39). -/
def HeaderUnit.aborted (h : HeaderUnit) : HeaderUnit :=
  { h.closeSubframe with received := 0, lock := .hunt, badRun := 0 }

/-- A fill read in flight is dropped with its fill (log 33). -/
def Flight.dropFill (f : Flight) : Flight :=
  match f.purpose with
  | .fill _ => { f with purpose := .droppedFill }
  | _ => f

/-- The effects of ABORT (R163). -/
def abortEffects (s : State) : State :=
  ((((s.setCmd { s.cmd with run := .idle }).setHdr s.hdr.aborted).setDark s.dark.dropBuilding).setCache s.cache.clear).setArb
    { s.arb with inFlight := s.arb.inFlight.map Flight.dropFill }

/-- The command in flight has reached its stopping point: ABORT's effects apply and its outcome DONE is written (R164). -/
def stopForAbort (s : State) : State :=
  finishCommand .done
    (abortEffects ((s.setBulk none).setCmd { s.cmd with aborting := false, saving := none }))

/-- Nothing of the command in flight has to end before it stops: no transaction of it is placed, and no flush writeback
is in progress (R164, log 13). A COMMIT_DARK stops only with its tile or its library write, a DROP_DARK with its library
write. -/
def State.stopsAtOnce (s : State) : Bool :=
  match s.bulk with
  | some (.contextWrite _ _ _ _ placed) => !placed
  | some (.contextRead _ placed ended _ _) => decide (placed = ended)
  | some (.libraryRead _ placed) => !placed
  | some (.recordRead _ _ _ _ _) => false
  | some (.planeWrite _ _ _ _ _) => false
  | some (.libraryWrite _ _ _) => false
  | none => false

/-! ## The COMMIT_DARK walk (R58 to R62) -/

/-- The mean m of a record (R59). -/
def recMean (r : Rec) : Nat := (halfEven r.sum.toNat r.n.toNat).toNat

/-- The plane value of a record (R59). -/
def planeValue (hot : BitVec 16) (r : Rec) : BitVec 16 :=
  if r.n = 0 then 0
  else if hot.toNat ≤ recMean r then 0xFFFF
  else BitVec.ofNat 16 (min (recMean r) 65534)

/-- The records of a tile read from DRAM, in tile-position order. -/
def tileRecords (image : Nat) : List Rec := (List.range 1024).map fun p => Rec.ofNat (image / 2 ^ (96 * p))

/-- The 16 plane parts of a tile's 1024 plane values. -/
def planeParts (values : List (BitVec 16)) : List Chunk :=
  let image := values.foldr (fun v rest => v.toNat + 65536 * rest) 0
  (List.range 16).map (partOf image)

/-- The two last-commit values rise, each held at its greatest value (R187). -/
def countCommit (hot uncovered : Nat) (s : State) : State :=
  s.setRep { s.rep with hotMarked := satAdd s.rep.hotMarked hot, uncovered := satAdd s.rep.uncovered uncovered }

/-- The walk comes to a tile: an untouched one's plane bytes are 0 and all uncovered, a touched one's records are read
(R58, R59). -/
def beginTile (job : Commit) (s : State) : State :=
  if s.cache.isTouched job.tile then s.setBulk (some (.recordRead job 0 0 false []))
  else countCommit 0 1024 (s.setBulk (some (.planeWrite job (List.replicate 16 0) 0 0 false)))

/-- A touched tile's records have been read: its plane values are formed, all hot after an error, and its plane writes
begin (R59, R60). -/
def formTile (job : Commit) (failed : Bool) (parts : List (Nat × Chunk)) (s : State) : State :=
  if failed then
    raise .memoryFault
      (countCommit 1024 0 (s.setBulk (some (.planeWrite job (List.replicate 16 (BitVec.allOnes 1024)) 0 0 false))))
  else
    let recs := tileRecords (imageOfParts 96 parts)
    let uncovered := (recs.filter fun r => decide (r.n = 0)).length
    let hot := (recs.filter fun r => decide (r.n ≠ 0 ∧ job.hot.toNat ≤ recMean r)).length
    countCommit hot uncovered
      (s.setBulk (some (.planeWrite job (planeParts (recs.map (planeValue job.hot))) 0 0 false)))

/-- The temperature COMMIT_DARK gives its slot: half-even(temperature sum / folded count); outside s16 a free value
(R62, log 9). -/
def meanTemperature (sum : BitVec 64) (folded : BitVec 16) : BitVec 16 :=
  let m := halfEven sum.toInt folded.toNat
  if -32768 ≤ m ∧ m ≤ 32767 then BitVec.ofInt 16 m else Config.meanTemperatureOutside m

/-- The slot of a finished walk, VALID (R62). -/
def State.finishedSlot (s : State) (x : Slot) : Slot :=
  { x with
    building := false
    temperature := meanTemperature s.dark.tempSum s.hdr.folded
    eref := s.dark.eref
    frames := s.hdr.folded }

/-- The library record write begins, with the slot table as it stands (R64). -/
def beginLibraryWrite (base : BitVec 32) (s : State) : State :=
  s.setBulk (some (.libraryWrite base s.dark.libraryImage false))

/-- The walk has ended without a plane write error (R62). -/
def endWalk (job : Commit) (s : State) : State :=
  beginLibraryWrite s.cmd.snap.ckptBase
    (s.setDark (s.dark.setSlot job.slot ((s.dark.slot job.slot).map s.finishedSlot)))

/-- A tile's plane writes have all ended without error: the tile is done, and the walk goes on, ends, or stops for an
ABORT (R58, R62, R63). -/
def tileDone (job : Commit) (s : State) : State :=
  let s := s.setCmd { s.cmd with progress := satAdd s.cmd.progress 1 }
  if s.cmd.aborting then stopForAbort s
  else if job.tile + 1 < s.cmd.snap.tiles then beginTile { job with tile := job.tile + 1 } s
  else endWalk job s

/-- A plane write has been answered with ERROR: the slot is EMPTY and MEMORY_FAULT is raised (R61, log 29). -/
def failPlane (job : Commit) (s : State) : State :=
  raise .memoryFault (s.setDark (s.dark.setSlot job.slot none))

/-- An answered record read of COMMIT_DARK (R59). -/
def recordReadAnswered (job : Commit) (placed ended : Nat) (failed : Bool) (parts : List (Nat × Chunk)) (part : Nat)
    (resp : Response) (data : Chunk) (s : State) : State :=
  let failed := failed || decide (resp = .error)
  let parts := if resp = .ok then Table.set 0 parts part data else parts
  if ended + 1 = 96 then formTile job failed parts s
  else s.setBulk (some (.recordRead job placed (ended + 1) failed parts))

/-- An answered plane write of COMMIT_DARK (R58, R61). -/
def planeWriteAnswered (job : Commit) (plane : List Chunk) (placed ended : Nat) (failed : Bool) (resp : Response)
    (s : State) : State :=
  let s := if resp = .error then failPlane job s else s
  let failed := failed || decide (resp = .error)
  if failed then
    if ended + 1 = placed then
      if s.cmd.aborting then stopForAbort s else finishCommand .memoryFault (s.setBulk none)
    else s.setBulk (some (.planeWrite job plane placed (ended + 1) true))
  else if ended + 1 = 16 then tileDone job s
  else s.setBulk (some (.planeWrite job plane placed (ended + 1) false))

/-! ## The context write and the library record -/

/-- An answered write of the run context (R155, R164). -/
def contextWriteAnswered (base : BitVec 32) (parts : List Chunk) (lost : Bool) (step : Nat) (resp : Response)
    (s : State) : State :=
  let s := if resp = .error then raise .memoryFault s else s
  if s.cmd.aborting then stopForAbort s
  else if resp = .error then finishSave false s
  else if step = 32 then finishSave (!lost) s
  else s.setBulk (some (.contextWrite base parts lost (step + 1) false))

/-- The library record write has been answered (R62, R63, R65). -/
def libraryWriteAnswered (resp : Response) (s : State) : State :=
  let s := (if resp = .error then raise .memoryFault s else s).setBulk none
  if s.cmd.aborting then stopForAbort s
  else finishCommand (if resp = .error then .memoryFault else .done) s

/-- The library record read has been answered (R66, R67). -/
def libraryReadAnswered (resp : Response) (data : Chunk) (s : State) : State :=
  let s := s.setBulk none
  if resp = .error then
    if s.cmd.aborting then stopForAbort (raise .memoryFault s) else finishFaulted s
  else if s.cmd.aborting then stopForAbort s
  else finishCommand .done (s.setDark { s.dark with slots := slotsOfLibrary data.toNat })

/-! ## RESUME (R160 to R162) -/

/-- The restoration of a run context (R162). With its flag clear in the record the reference exposure becomes 0 (log 18), and
t0 takes the record's bytes (log 41, the model's choice). -/
def restoreRun (image : Nat) (s : State) : State :=
  let f := Frozen.ofImage image 32
  let t0Set := decide (fieldAt image 9 1 ≠ 0)
  let erefSet := decide (fieldAt image 10 1 ≠ 0)
  let cmd := { s.cmd with snap := clampParams f, mode := contextMode image, run := .running }
  let hdr := { s.hdr.emptyHistory with
    folded := BitVec.ofNat 16 (fieldAt image 22 2)
    last := BitVec.ofNat 16 (fieldAt image 20 2)
    lock := .probe
    badRun := 0
    opened := none }
  let dark := { s.dark with
    tempSum := BitVec.ofNat 64 (fieldAt image 24 8)
    eref := if erefSet then BitVec.ofNat 32 (fieldAt image 16 4) else 0
    erefSet := erefSet }
  let rot := { s.rot with t0 := BitVec.ofNat 32 (fieldAt image 12 4), t0Set := t0Set }
  let cache := { s.cache with touched := contextTouched image f.tiles, firstFillError := none }
  let rep := { s.rep with
    counters := contextCounters image
    hotMarked := BitVec.ofNat 32 (fieldAt image 208 4)
    uncovered := BitVec.ofNat 32 (fieldAt image 212 4)
    clampMask := clampMaskOf f }
  (((((s.setCmd cmd).setHdr hdr).setDark dark).setRot rot).setCache cache).setRep rep

/-- Every read of RESUME has ended without error: the checks, then the restoration (R160 to R162). An illegal geometry in
the record is BAD_CONTEXT, as R161 and R146 name it, where R1 speaks of BAD_PLAN for START and RESUME alike (log 34). -/
def endResume (base : BitVec 32) (image : Nat) (s : State) : State :=
  if !contextUsable s.planBase base image then finishCommand .badContext s
  else if !darkTest (contextMode image) (Frozen.ofImage image 32) s.dark then finishCommand .noDark s
  else finishCommand .done (restoreRun image s)

/-- An answered read of RESUME; after an error no further read is placed and RESUME ends once those in flight have ended
(R160, log 22). For an ABORT no further read is placed either, and the stopping point is the end of the last one placed
(R164, log 37). -/
def contextReadAnswered (base : BitVec 32) (placed ended : Nat) (failed : Bool) (parts : List (Nat × Chunk)) (part : Nat)
    (resp : Response) (data : Chunk) (s : State) : State :=
  let failed := failed || decide (resp = .error)
  let parts := if resp = .ok then Table.set 0 parts part data else parts
  if s.cmd.aborting then
    if ended + 1 = placed then stopForAbort (if failed then raise .memoryFault s else s)
    else s.setBulk (some (.contextRead base placed (ended + 1) failed parts))
  else if failed then
    if ended + 1 = placed then finishFaulted (s.setBulk none)
    else s.setBulk (some (.contextRead base placed (ended + 1) true parts))
  else if ended + 1 = 32 then endResume base (imageOfParts 32 parts) (s.setBulk none)
  else s.setBulk (some (.contextRead base placed (ended + 1) false parts))

end Sys2Proof.Machine
end

