-- ==== Sys2Proof/Machine/Commands.lean ====
section
/-! DEFINITION. Machine/Commands.lean: the Command Unit: how a command word is taken, judged and begun (R56, R65, R66,
R144 to R153, R156, R158, R160, R163, R164). -/

namespace Sys2Proof.Machine

/-- A command is taken: the count rises and the record takes it, pending (R146). -/
def recordTaken (code arg aborted : BitVec 16) (s : State) : State :=
  s.setCmd { s.cmd with taken := s.cmd.taken + 1, record := ⟨code, arg, none, aborted⟩ }

/-- A long command is accepted: the unit is BUSY (R145). -/
def acceptLong (c : LongCommand) (arg : BitVec 16) (s : State) : State :=
  s.setCmd { s.cmd with inFlight := some (c, arg) }

/-- A command word is turned away while BUSY (R145). -/
def turnAway (code : BitVec 16) (s : State) : State :=
  count .refusedWhileBusy 1 (s.setCmd { s.cmd with lastRefused := code })

/-! ## START (R150 to R153) -/

/-- The Header Unit after an accepted START (R153). -/
def HeaderUnit.started (h : HeaderUnit) : HeaderUnit :=
  { h.emptyHistory with received := 0, lock := .hunt, last := 0, badRun := 0, folded := 0, opened := none }

/-- An accepted START: the snapshot with the fold parameters clamped, and the working state of the run (R152, R153,
R185, R187). -/
def startRun (mode : RunMode) (s : State) : State :=
  let f := s.cmd.plan.frozen
  let cmd := { s.cmd with snap := clampParams f, mode := mode, run := .running }
  let rot := { s.rot with t0 := 0, t0Set := false }
  let dark := { s.dark with tempSum := 0, eref := 0, erefSet := false }
  let cache := { s.cache.clear with firstFillError := none }
  let rep := { s.rep with counters := [], hotMarked := 0, uncovered := 0, clampMask := clampMaskOf f }
  (((((s.setCmd cmd).setHdr s.hdr.started).setRot rot).setDark dark).setCache cache).setRep rep

/-- The run mode a START arg names (R147). -/
def startMode (arg : BitVec 16) : RunMode := if arg = 0 then .light else .dark

/-- START judged (R147, R150, R152). -/
def judgeStart (arg : BitVec 16) (s : State) : State :=
  if 1 < arg.toNat then finishCommand .badCommand s
  else if s.cmd.run ≠ .idle ∧ s.cmd.run ≠ .ended then finishCommand .wrongState s
  else if !s.cmd.plan.frozen.usable s.planBase then finishCommand .badPlan s
  else if !darkTest (startMode arg) s.cmd.plan.frozen s.dark then finishCommand .noDark s
  else finishCommand .done (startRun (startMode arg) s)

/-! ## END, CHECKPOINT and RESUME (R156, R158, R160) -/

/-- END judged (R156). -/
def judgeEnd (arg : BitVec 16) (s : State) : State :=
  if s.cmd.run ≠ .running then finishCommand .wrongState s
  else
    let s := closeCounted (acceptLong .endRun arg s)
    beginSave .endRun (s.setCmd { s.cmd with run := .ending })

/-- CHECKPOINT judged (R158). -/
def judgeCheckpoint (arg : BitVec 16) (s : State) : State :=
  if s.cmd.run ≠ .running then finishCommand .wrongState s else beginSave .checkpoint (acceptLong .checkpoint arg s)

/-- RESUME judged; from a bad checkpoint base it ends at once (R149, R160). One refused with WRONG_STATE leaves the received
mask, and an accepted one clears it (R20, log 35). -/
def judgeResume (arg : BitVec 16) (s : State) : State :=
  if s.cmd.run ≠ .idle then finishCommand .wrongState s
  else
    let base := s.cmd.plan.frozen.ckptBase
    let s := (acceptLong .resume arg s).setHdr { s.hdr with received := 0 }
    if badCkptBase base then finishFaulted s else s.setBulk (some (.contextRead base 0 0 false []))

/-! ## The dark library (R56, R65, R66) -/

/-- The slot COMMIT_DARK begins to build (R56). -/
def State.newSlot (s : State) (k : Nat) : Slot where
  building := true
  temperature := 0
  eref := 0
  frames := 0
  width := s.cmd.snap.width
  height := s.cmd.snap.height
  base := s.cmd.snap.darkBase + BitVec.ofNat 32 (k * 50331648)

/-- COMMIT_DARK judged (R56). -/
def judgeCommitDark (arg : BitVec 16) (s : State) : State :=
  if 3 < arg.toNat then finishCommand .badSlot s
  else if s.cmd.run ≠ .ended ∨ s.cmd.mode ≠ .dark then finishCommand .wrongState s
  else if s.hdr.folded = 0 then finishCommand .emptyRun s
  else
    let k := arg.toNat
    let t := (acceptLong .commitDark arg s).setDark (s.dark.setSlot k (some (s.newSlot k)))
    let t := (t.setCmd { t.cmd with progress := 0 }).setRep { t.rep with hotMarked := 0, uncovered := 0 }
    beginTile ⟨k, 0, s.cmd.plan.hotThreshold⟩ t

/-- The checkpoint base DROP_DARK and ADOPT_LIBRARY read: the snapshot's in ENDED, the plan shadow's in IDLE (R149). -/
def State.libraryBase (s : State) : BitVec 32 := s.active.ckptBase

/-- The base is one from which no transaction is placed: only the plan shadow's is tested (R149). -/
def State.badLibraryBase (s : State) : Bool := decide (s.cmd.run = .idle) && badCkptBase s.libraryBase

/-- DROP_DARK judged (R65). -/
def judgeDropDark (arg : BitVec 16) (s : State) : State :=
  if 3 < arg.toNat then finishCommand .badSlot s
  else if s.cmd.run ≠ .idle ∧ s.cmd.run ≠ .ended then finishCommand .wrongState s
  else
    let t := (acceptLong .dropDark arg s).setDark (s.dark.setSlot arg.toNat none)
    if s.badLibraryBase then finishFaulted t else beginLibraryWrite s.libraryBase t

/-- ADOPT_LIBRARY judged (R66, R67). -/
def judgeAdoptLibrary (arg : BitVec 16) (s : State) : State :=
  if s.cmd.run ≠ .idle ∧ s.cmd.run ≠ .ended then finishCommand .wrongState s
  else
    let t := acceptLong .adoptLibrary arg s
    if s.badLibraryBase then finishFaulted t else t.setBulk (some (.libraryRead s.libraryBase false))

/-! ## Taking a command word (R145 to R147, R163, R164) -/

/-- A command taken in READY is judged (R147, R163). -/
def judge (code arg : BitVec 16) (s : State) : State :=
  if code = startCode then judgeStart arg s
  else if code = endCode then judgeEnd arg s
  else if code = checkpointCode then judgeCheckpoint arg s
  else if code = resumeCode then judgeResume arg s
  else if code = commitDarkCode then judgeCommitDark arg s
  else if code = dropDarkCode then judgeDropDark arg s
  else if code = adoptLibraryCode then judgeAdoptLibrary arg s
  else if code = abortCode then finishCommand .done (abortEffects s)
  else finishCommand .badCommand s

/-- ABORT taken while BUSY: the first stops the command in flight at its stopping point, a further one only counts
(R164). -/
def abortBusy (c : LongCommand) (arg : BitVec 16) (s : State) : State :=
  if s.cmd.aborting then s.setCmd { s.cmd with taken := s.cmd.taken + 1 }
  else
    let t := recordTaken abortCode arg c.code s
    let t := t.setCmd { t.cmd with aborting := true }
    if t.stopsAtOnce then stopForAbort t else t

/-- A command word that a plan write carries (R144, R145). -/
def takeCommand (code arg : BitVec 16) (s : State) : State :=
  match s.cmd.inFlight with
  | none => judge code arg (recordTaken code arg 0 s)
  | some (c, _) => if code = abortCode then abortBusy c arg s else turnAway code s

end Sys2Proof.Machine
end

