-- ==== Sys2Proof/Machine/Plink.lean ====
section
/-! DEFINITION. Machine/Plink.lean: the P-link: how the Window Decoder takes requests, in order, one at a time, and what
each window makes of them (R165 to R175, R180, R183). -/

namespace Sys2Proof.Machine

/-! ## Plan page writes (R6, R7, R144, R171, R180, R190) -/

/-- A byte of the class window on a class page: the four entries it holds (R5, R6). -/
def setClassByte (page : BitVec 8) (t : List (Nat × TileClass)) (p : Nat × Byte) : List (Nat × TileClass) :=
  if page.toNat < 3 then
    (List.range 4).foldl
      (fun t i => Table.set .ground t (page.toNat * 8192 + 4 * (p.1 - 0x800) + i)
        (classOfCode (p.2.extractLsb' (2 * i) 2))) t
  else t

/-- The class write a burst carries, on the class page held before it; ignored and counted while RUNNING (R6, R7). -/
def classWrite (page : BitVec 8) (bytes : List (Nat × Byte)) (s : State) : State :=
  let window := bytes.filter fun p => decide (0x800 ≤ p.1)
  if window = [] then s
  else if s.cmd.run = .running then count .classWritesIgnored 1 s
  else s.setClasses (window.foldl (setClassByte page) s.classes)

/-- The snoop of a plan write: the fields, the class write, the clear word, then the command (R171, R180, R190). -/
def snoop (off : Nat) (beats : List Beat) (s : State) : State :=
  let bytes := strobedBytes off beats
  let page := s.cmd.plan.classPage
  let s := s.setCmd { s.cmd with plan := bytes.foldl Plan.setByte s.cmd.plan }
  let s := clearEvents (clearWordOf bytes) (classWrite page bytes s)
  match commandOf off beats with
  | some (code, arg) => takeCommand code arg s
  | none => s

/-! ## Taking a request -/

/-- The request is carried to DRAM as one M-link transaction (R174). -/
def carry (r : Request) (s : State) : State := s.setInHand (some (.through r false))

/-- The answer of the Window Decoder's own refusals: ERROR, a read's beats all 0, none where the beat count lies outside
1 to 16 (R166). -/
def refuse (r : Request) (s : State) : State :=
  match r with
  | .read _ n => answer .error (if goodCount n then List.replicate n 0 else []) s
  | .write _ _ => answer .error [] s

/-- A request to a window whose accesses go to DRAM (R171, R173 to R175). -/
def takeThrough (w : Window) (r : Request) (s : State) : State :=
  match r with
  | .read _ _ => carry r s
  | .write a beats =>
    if s.isProtected r then refuse r s
    else if w = .plan then carry r (snoop (a.toNat - s.planBase.toNat) beats s)
    else carry r s

/-- A request to the report page (R172, R183). -/
def takeReport (r : Request) (s : State) : State :=
  match r with
  | .read a n => answer .ok (s.reportBeats (a.toNat - (s.planBase.toNat + 4096)) n) s
  | .write _ _ => refuse r s

/-- A request to the capture window (R172). -/
def takeCapture (r : Request) (s : State) : State :=
  match r with
  | .read _ _ => refuse r s
  | .write a beats => takeCaptureWrite a beats s

/-- A request to a result view that begins at `base` (R129, R172). -/
def takeResult (view : View) (base : Nat) (r : Request) (s : State) : State :=
  match r with
  | .read a n => takeResultRead view (a.toNat - base) n s
  | .write _ _ => refuse r s

/-- A request is taken by the Window Decoder (R165, R167, R171 to R175). -/
def takeRequest (r : Request) (s : State) : State :=
  if s.refuses r then refuse r s
  else
    match s.windowOf r.addr.toNat with
    | .report => takeReport r s
    | .capture => takeCapture r s
    | .image => takeResult .image s.active.imageRegion.base r s
    | .coverage => takeResult .coverage s.active.coverageRegion.base r s
    | .plan => takeThrough .plan r s
    | .checkpoint => takeThrough .checkpoint r s
    | .accumulator => takeThrough .accumulator r s
    | .dark => takeThrough .dark r s
    | .pass => takeThrough .pass r s

/-! ## Arrival and order (R165) -/

/-- A request whose address lies in the capture window waits while a CHECKPOINT is in flight (R158, R165). -/
def State.holdsBack (s : State) (r : Request) : Bool :=
  s.inFlightIs .checkpoint && s.hasCapture && s.active.captureRegion.contains r.addr.toNat

/-- The three conditions under which a request is taken (R165). -/
def State.canTake (s : State) (r : Request) : Bool := s.inHand.isNone && !s.resetLow && !s.holdsBack r

/-- Requests are taken in order for as long as the next can be; the others wait (R165). The list is apart from the state:
no rule of taking a request looks at those behind it. -/
def takeAll : List Request → State → State
  | [], s => s.setWaiting []
  | r :: rest, s => if s.canTake r then takeAll rest ((takeRequest r s).setWaiting []) else s.setWaiting (r :: rest)

/-- A request arrives on the P-link, behind those that wait (R165). -/
def arrive (r : Request) (s : State) : State := takeAll (s.waiting ++ [r]) (s.setWaiting [])

/-- After an event: the request in hand goes on if it can, and waiting requests are taken if they can be. -/
def settle (s : State) : State := takeAll s.waiting (resumeHand (s.setWaiting []))

end Sys2Proof.Machine
end

