-- ==== Sys2Proof/Machine/CaptureWindow.lean ====
section
/-! DEFINITION. Machine/CaptureWindow.lean: the requests to the capture window: HEADER_WRITE, CAPTURE_WRITE and CAPTURE_READ (R8 to R11, R172). -/

namespace Sys2Proof.Machine

/-- HEADER_WRITE (R8). -/
def execHeaderWrite (addr : BitVec 32) (beats : List Beat) (s : State) : Host.Outcome State Fault Refusal :=
  .next (arrive (.write addr beats) s)

/-- CAPTURE_WRITE (R11). -/
def execCaptureWrite (addr : BitVec 32) (beats : List Beat) (s : State) : Host.Outcome State Fault Refusal :=
  .next (arrive (.write addr beats) s)

/-- CAPTURE_READ (R172). -/
def execCaptureRead (addr : BitVec 32) (beats : Nat) (s : State) : Host.Outcome State Fault Refusal :=
  .next (arrive (.read addr beats) s)

end Sys2Proof.Machine
end

