-- ==== Sys2Proof/Machine/CommandWords.lean ====
section
/-! DEFINITION. Machine/CommandWords.lean: the command words, each a plan page write whose first beat carries code and arg (R144 to R147). -/

namespace Sys2Proof.Machine

/-- START (R152). -/
def execStart (burst : CommandBurst) (s : State) : Host.Outcome State Fault Refusal :=
  .next (arrive (commandRequest startCode burst s) s)

/-- END (R156). -/
def execEndRun (burst : CommandBurst) (s : State) : Host.Outcome State Fault Refusal :=
  .next (arrive (commandRequest endCode burst s) s)

/-- CHECKPOINT (R158). -/
def execCheckpoint (burst : CommandBurst) (s : State) : Host.Outcome State Fault Refusal :=
  .next (arrive (commandRequest checkpointCode burst s) s)

/-- RESUME (R160). -/
def execResume (burst : CommandBurst) (s : State) : Host.Outcome State Fault Refusal :=
  .next (arrive (commandRequest resumeCode burst s) s)

/-- COMMIT_DARK (R56). -/
def execCommitDark (burst : CommandBurst) (s : State) : Host.Outcome State Fault Refusal :=
  .next (arrive (commandRequest commitDarkCode burst s) s)

/-- DROP_DARK (R65). -/
def execDropDark (burst : CommandBurst) (s : State) : Host.Outcome State Fault Refusal :=
  .next (arrive (commandRequest dropDarkCode burst s) s)

/-- ADOPT_LIBRARY (R66). -/
def execAdoptLibrary (burst : CommandBurst) (s : State) : Host.Outcome State Fault Refusal :=
  .next (arrive (commandRequest adoptLibraryCode burst s) s)

/-- ABORT (R163, R164). -/
def execAbort (burst : CommandBurst) (s : State) : Host.Outcome State Fault Refusal :=
  .next (arrive (commandRequest abortCode burst s) s)

/-- BAD_COMMAND (R147). -/
def execBadCommand (code : BitVec 16) (burst : CommandBurst) (s : State) : Host.Outcome State Fault Refusal :=
  .next (arrive (commandRequest code burst s) s)

end Sys2Proof.Machine
end

