-- ==== Sys2Proof/Machine/Arbiter.lean ====
section
/-! DEFINITION. Machine/Arbiter.lean: the M-link Arbiter: what each requester presents, the grant, and how an answer
finds its transaction (R176 to R179). -/

namespace Sys2Proof.Machine

/-- The requesters in the order of R177. -/
def requesters : List Requester := [.passThrough, .darkFetch, .sectorFill, .sectorWriteback, .bulkMover]

/-! ## Pass counts (R178) -/

def PassCounts.of (c : PassCounts) : Requester → Nat
  | .passThrough => c.passThrough
  | .darkFetch => c.darkFetch
  | .sectorFill => c.sectorFill
  | .sectorWriteback => c.sectorWriteback
  | .bulkMover => c.bulkMover

/-- The pass counts with a new value for each requester. -/
def PassCounts.make (f : Requester → Nat) : PassCounts :=
  ⟨f .passThrough, f .darkFetch, f .sectorFill, f .sectorWriteback, f .bulkMover⟩

/-! ## What is presented (R176) -/

/-- The read of a dark fetch. -/
def fetchRead (f : Fetch) : Request := .read (BitVec.ofNat 32 f.addr) 8

/-- The fetch of a block that is not yet placed, slot a's first (R176). -/
def Block.wantedFetch (b : Block) : Option (Purpose × Request) :=
  match b.fetchA.filter fun f => decide (f.state = .wanted) with
  | some f => some (.darkFetch b.row b.block false, fetchRead f)
  | none =>
    match b.fetchB.filter fun f => decide (f.state = .wanted) with
    | some f => some (.darkFetch b.row b.block true, fetchRead f)
    | none => none

/-- What the Dark Unit presents: the fetches of the block that landed earlier come first (log 36). -/
def State.presentsFetch (s : State) : Option (Purpose × Request) :=
  match s.inHand with
  | some (.capture cap) => cap.blocks.findSome? Block.wantedFetch
  | _ => none

/-- What the pass-through requester presents (R174). -/
def State.presentsThrough (s : State) : Option (Purpose × Request) :=
  match s.inHand with
  | some (.through r false) => some (.passThrough, r)
  | _ => none

/-- What the Tile Cache presents for its fill (R118). -/
def State.presentsFill (s : State) : Option (Purpose × Request) :=
  match s.cache.fill with
  | some f =>
    if f.placed < 96 then some (.fill f.placed, .read (recordAddr s.cmd.snap.accBase f.tile f.placed) 16) else none
  | none => none

/-- What the Tile Cache presents for its writeback (R120). -/
def State.presentsWriteback (s : State) : Option (Purpose × Request) :=
  match s.cache.writeback with
  | some w =>
    match s.cache.sector w.sector with
    | some x =>
      if w.placed < 96 then
        some (if w.forFlush then .flush w.placed else .evict w.placed,
          .write (recordAddr s.cmd.snap.accBase x.tile w.placed) (chunkBeats (x.part w.placed)))
      else none
    | none => none
  | none => none

/-- The address of part `i` of a COMMIT_DARK tile's plane bytes (R58). -/
def State.planeAddr (s : State) (job : Commit) (i : Nat) : BitVec 32 :=
  let base := match s.dark.slot job.slot with
    | some x => x.base
    | none => 0
  base + BitVec.ofNat 32 (job.tile * 2048 + 128 * i)

/-- What a Bulk Mover operation presents (R58, R59, R64, R66, R155, R160). The reads and writes of COMMIT_DARK and the reads of
RESUME go in ascending address order (log 43, the model's choice), and with an ABORT pending COMMIT_DARK's tile in hand is
carried to its end (log 12). -/
def State.presentsBulkOp (s : State) (b : BulkOp) : Option (Purpose × Request) :=
  match b with
  | .contextWrite base parts _ step placed =>
    if placed then none
    else
      some (.contextWrite,
        .write (base + BitVec.ofNat 32 (contextStepOffset step)) (chunkBeats (contextStepPart parts step)))
  | .contextRead base placed _ failed _ =>
    if placed < 32 ∧ failed = false ∧ s.cmd.aborting = false then
      some (.contextRead placed, .read (base + BitVec.ofNat 32 (128 * placed)) 16)
    else none
  | .recordRead job placed _ _ _ =>
    if placed < 96 then some (.recordRead placed, .read (recordAddr s.cmd.snap.accBase job.tile placed) 16) else none
  | .planeWrite job plane placed _ failed =>
    if placed < 16 ∧ failed = false then
      some (.planeWrite placed, .write (s.planeAddr job placed) (chunkBeats (plane.getD placed 0)))
    else none
  | .libraryWrite base image placed =>
    if placed then none else some (.libraryWrite, .write (base + 4096) (chunkBeats image))
  | .libraryRead base placed => if placed then none else some (.libraryRead, .read (base + 4096) 16)

/-- The one transaction a requester presents, if any (R176). -/
def State.presents (s : State) : Requester → Option (Purpose × Request)
  | .passThrough => s.presentsThrough
  | .darkFetch => s.presentsFetch
  | .sectorFill => s.presentsFill
  | .sectorWriteback => s.presentsWriteback
  | .bulkMover => s.bulk.bind s.presentsBulkOp

/-! ## The grant (R177, R178) -/

/-- The requester that takes the next grant: the first presenting with pass count 16, else the first presenting. -/
def State.grantee (s : State) : Option Requester :=
  match requesters.find? fun r => (s.presents r).isSome && decide (s.arb.passCounts.of r = 16) with
  | some r => some r
  | none => requesters.find? fun r => (s.presents r).isSome

/-- A requester's pass count after a grant to `granted` (R178). -/
def State.passAfter (s : State) (granted r : Requester) : Nat :=
  if r = granted then 0
  else if (s.presents r).isSome then min 16 (s.arb.passCounts.of r + 1)
  else 0

/-- A fetch of a landed block as its transaction is placed or has ended. -/
def Block.setFetch (row block : Nat) (second : Bool) (st : FetchState) (b : Block) : Block :=
  if b.row = row ∧ b.block = block then
    if second then { b with fetchB := b.fetchB.map fun f => { f with state := st } }
    else { b with fetchA := b.fetchA.map fun f => { f with state := st } }
  else b

/-- The capture burst in hand with a fetch of one block in a new state. -/
def setFetch (row block : Nat) (second : Bool) (st : FetchState) (s : State) : State :=
  match s.inHand with
  | some (.capture cap) =>
    s.setInHand (some (.capture { cap with blocks := cap.blocks.map (Block.setFetch row block second st) }))
  | _ => s

/-- The Bulk Mover's operation with its presented transaction placed. -/
def BulkOp.place : BulkOp → BulkOp
  | .contextWrite base parts lost step _ => .contextWrite base parts lost step true
  | .contextRead base placed ended failed parts => .contextRead base (placed + 1) ended failed parts
  | .recordRead job placed ended failed parts => .recordRead job (placed + 1) ended failed parts
  | .planeWrite job plane placed ended failed => .planeWrite job plane (placed + 1) ended failed
  | .libraryWrite base image _ => .libraryWrite base image true
  | .libraryRead base _ => .libraryRead base true

/-- The granted transaction's requester goes on to its next (R176). -/
def markPlaced (p : Purpose) (s : State) : State :=
  match p with
  | .passThrough =>
    match s.inHand with
    | some (.through r _) => s.setInHand (some (.through r true))
    | _ => s
  | .darkFetch row block second => setFetch row block second .placed s
  | .fill _ => s.setCache { s.cache with fill := s.cache.fill.map fun f => { f with placed := f.placed + 1 } }
  | .droppedFill => s
  | .evict _ =>
    s.setCache { s.cache with writeback := s.cache.writeback.map fun w => { w with placed := w.placed + 1 } }
  | .flush _ =>
    s.setCache { s.cache with writeback := s.cache.writeback.map fun w => { w with placed := w.placed + 1 } }
  | .contextWrite => s.setBulk (s.bulk.map BulkOp.place)
  | .contextRead _ => s.setBulk (s.bulk.map BulkOp.place)
  | .recordRead _ => s.setBulk (s.bulk.map BulkOp.place)
  | .planeWrite _ => s.setBulk (s.bulk.map BulkOp.place)
  | .libraryWrite => s.setBulk (s.bulk.map BulkOp.place)
  | .libraryRead => s.setBulk (s.bulk.map BulkOp.place)

/-- A requester's presented transaction is placed and the pass counts follow (R176 to R178). -/
def placeGranted (r : Requester) (s : State) : State :=
  match s.presents r with
  | none => s
  | some (p, txn) =>
    (markPlaced p s).setArb ⟨PassCounts.make (s.passAfter r), s.arb.inFlight ++ [⟨p, txn⟩]⟩

/-- The M-link Arbiter makes a grant; with nothing presented, 8 in flight or the RESET line asserted it makes none
(R177, R179, log 25). -/
def grant (s : State) : State :=
  if s.resetLow ∨ 8 ≤ s.arb.inFlight.length then s
  else
    match s.grantee with
    | none => s
    | some r => placeGranted r s

/-! ## Answers (R176, R179) -/

/-- The transaction in flight that an answer names, if it is one of the kind the answer is for (log 6). -/
def State.flightOf (s : State) (index : Nat) (kind : Purpose → Bool) : Option Flight :=
  s.arb.inFlight[index]?.filter fun f => kind f.purpose

/-- The transaction has ended: it is no longer in flight. -/
def land (index : Nat) (s : State) : State :=
  s.setArb { s.arb with inFlight := s.arb.inFlight.eraseIdx index }

/-- How a dark fetch ends (R51, R52). -/
def fetchOutcome (resp : Response) (data : BitVec 512) : FetchState :=
  match resp with
  | .ok => .ended data
  | .error => .failed

end Sys2Proof.Machine
end

