-- ==== Sys2Proof/Machine/MLink.lean ====
section
/-! DEFINITION. Machine/MLink.lean: the answers of the transactions in flight, one row for each kind (R50, R58 to R67, R118 to R124,
R155 to R164, R176). -/

namespace Sys2Proof.Machine

/-- A dark fetch. -/
def Purpose.isFetch (p : Purpose) : Bool :=
  match p with
  | .darkFetch _ _ _ => true
  | _ => false

/-- DARK_FETCH_END (R50 to R52). -/
def execDarkFetchEnd (index : Nat) (resp : Response) (data : BitVec 512) (s : State) : Host.Outcome State Fault Refusal :=
  .next
    (match s.flightOf index Purpose.isFetch with
     | some ⟨.darkFetch row block second, _⟩ => settle (setFetch row block second (fetchOutcome resp data) (land index s))
     | _ => s)

/-- The counter, the event and the first fill-error tile are set when a fill that met an error ends (R119). -/
def countFill (f : Fill) (s : State) : State := if f.failed then raise .memoryFault (count .fillErrors 1 s) else s

/-- A read of the fill in progress has been answered; after the 96th the fill ends (R118, R119). -/
def fillAnswered (part : Nat) (resp : Response) (data : Chunk) (s : State) : State :=
  match s.cache.fill with
  | some f =>
    let f := f.answered part resp data
    if f.ended = 96 then countFill f (s.setCache (s.cache.endFill f))
    else s.setCache { s.cache with fill := some f }
  | none => s

/-- A fill read, or one whose fill was dropped. -/
def Purpose.isFill (p : Purpose) : Bool :=
  match p with
  | .fill _ => true
  | .droppedFill => true
  | _ => false

/-- SECTOR_FILL_END (R118, R119). -/
def execSectorFillEnd (index : Nat) (resp : Response) (data : Chunk) (s : State) : Host.Outcome State Fault Refusal :=
  .next
    (match s.flightOf index Purpose.isFill with
     | some ⟨.fill part, _⟩ => settle (fillAnswered part resp data (land index s))
     | some ⟨.droppedFill, _⟩ => land index s
     | _ => s)

/-- A write of the writeback in progress has been answered (R120). -/
def writebackAnswered (w : Writeback) (s : State) : State := s.setCache { s.cache with writeback := some w }

/-- A write of an eviction writeback has been answered; after the 96th the writeback ends and the waiting allocation
begins again (R116, R120 to R122). -/
def evictionAnswered (resp : Response) (s : State) : State :=
  match s.cache.writeback with
  | some w =>
    let w := w.answered resp
    if w.ended = 96 then
      let e := s.cache.endWriteback w
      countWriteback e.2 (s.setCache e.1)
    else writebackAnswered w s
  | none => s

/-- A write of an eviction writeback. -/
def Purpose.isEvict (p : Purpose) : Bool :=
  match p with
  | .evict _ => true
  | _ => false

/-- EVICTION_WRITEBACK_END (R120 to R122). -/
def execEvictionWritebackEnd (index : Nat) (resp : Response) (s : State) : Host.Outcome State Fault Refusal :=
  .next
    (match s.flightOf index Purpose.isEvict with
     | some _ => settle (evictionAnswered resp (land index s))
     | _ => s)

/-- A flush writeback has ended: it is counted, and the flush stops for an ABORT or goes on (R120 to R124, R164). -/
def flushWritebackOver (w : Writeback) (s : State) : State :=
  let lost := s.cache.flush.any fun f => f.lost
  let e := s.cache.endWriteback w
  let s := countWriteback e.2 (s.setCache e.1)
  if s.cmd.aborting then stopForAbort s else flushNext w lost e.2 s

/-- A write of a flush writeback has been answered (R123). -/
def flushAnswered (resp : Response) (s : State) : State :=
  match s.cache.writeback with
  | some w =>
    let w := w.answered resp
    if w.ended = 96 then flushWritebackOver w s else writebackAnswered w s
  | none => s

/-- A write of a flush writeback. -/
def Purpose.isFlush (p : Purpose) : Bool :=
  match p with
  | .flush _ => true
  | _ => false

/-- FLUSH_WRITEBACK_END (R120 to R124). -/
def execFlushWritebackEnd (index : Nat) (resp : Response) (s : State) : Host.Outcome State Fault Refusal :=
  .next
    (match s.flightOf index Purpose.isFlush with
     | some _ => settle (flushAnswered resp (land index s))
     | _ => s)

/-- A write of the run context. -/
def Purpose.isContextWrite (p : Purpose) : Bool :=
  match p with
  | .contextWrite => true
  | _ => false

/-- CONTEXT_WRITE_END (R155, R157, R158). -/
def execContextWriteEnd (index : Nat) (resp : Response) (s : State) : Host.Outcome State Fault Refusal :=
  .next
    (match s.flightOf index Purpose.isContextWrite, s.bulk with
     | some _, some (.contextWrite base parts lost step true) =>
       settle (contextWriteAnswered base parts lost step resp (land index s))
     | some _, _ => land index s
     | none, _ => s)

/-- A read of RESUME. -/
def Purpose.isContextRead (p : Purpose) : Bool :=
  match p with
  | .contextRead _ => true
  | _ => false

/-- CONTEXT_READ_END (R160 to R162). -/
def execContextReadEnd (index : Nat) (resp : Response) (data : Chunk) (s : State) : Host.Outcome State Fault Refusal :=
  .next
    (match s.flightOf index Purpose.isContextRead, s.bulk with
     | some ⟨.contextRead part, _⟩, some (.contextRead base placed ended failed parts) =>
       settle (contextReadAnswered base placed ended failed parts part resp data (land index s))
     | some _, _ => land index s
     | none, _ => s)

/-- A record read of COMMIT_DARK. -/
def Purpose.isRecordRead (p : Purpose) : Bool :=
  match p with
  | .recordRead _ => true
  | _ => false

/-- COMMIT_RECORD_READ_END (R59, R60). -/
def execCommitRecordReadEnd (index : Nat) (resp : Response) (data : Chunk) (s : State) : Host.Outcome State Fault Refusal :=
  .next
    (match s.flightOf index Purpose.isRecordRead, s.bulk with
     | some ⟨.recordRead part, _⟩, some (.recordRead job placed ended failed parts) =>
       settle (recordReadAnswered job placed ended failed parts part resp data (land index s))
     | some _, _ => land index s
     | none, _ => s)

/-- A plane write of COMMIT_DARK. -/
def Purpose.isPlaneWrite (p : Purpose) : Bool :=
  match p with
  | .planeWrite _ => true
  | _ => false

/-- PLANE_WRITE_END (R58, R61, R62). -/
def execPlaneWriteEnd (index : Nat) (resp : Response) (s : State) : Host.Outcome State Fault Refusal :=
  .next
    (match s.flightOf index Purpose.isPlaneWrite, s.bulk with
     | some _, some (.planeWrite job plane placed ended failed) =>
       settle (planeWriteAnswered job plane placed ended failed resp (land index s))
     | some _, _ => land index s
     | none, _ => s)

/-- The library record write. -/
def Purpose.isLibraryWrite (p : Purpose) : Bool :=
  match p with
  | .libraryWrite => true
  | _ => false

/-- LIBRARY_WRITE_END (R62 to R65). -/
def execLibraryWriteEnd (index : Nat) (resp : Response) (s : State) : Host.Outcome State Fault Refusal :=
  .next
    (match s.flightOf index Purpose.isLibraryWrite, s.bulk with
     | some _, some (.libraryWrite _ _ true) =>
       settle (libraryWriteAnswered resp (land index s))
     | some _, _ => land index s
     | none, _ => s)

/-- The library record read. -/
def Purpose.isLibraryRead (p : Purpose) : Bool :=
  match p with
  | .libraryRead => true
  | _ => false

/-- LIBRARY_READ_END (R66, R67). -/
def execLibraryReadEnd (index : Nat) (resp : Response) (data : Chunk) (s : State) : Host.Outcome State Fault Refusal :=
  .next
    (match s.flightOf index Purpose.isLibraryRead, s.bulk with
     | some _, some (.libraryRead _ true) =>
       settle (libraryReadAnswered resp data (land index s))
     | some _, _ => land index s
     | none, _ => s)

end Sys2Proof.Machine
end

