-- ==== Sys2Proof/Machine/MemoryPath.lean ====
section
/-! DEFINITION. Machine/MemoryPath.lean: the requests that pass through, their end, and the grants of the M-link (R165, R174, R177). -/

namespace Sys2Proof.Machine

/-- PASS_THROUGH_READ (R174). -/
def execPassThroughRead (addr : BitVec 32) (beats : Nat) (s : State) : Host.Outcome State Fault Refusal :=
  .next (arrive (.read addr beats) s)

/-- PASS_THROUGH_WRITE (R174). -/
def execPassThroughWrite (addr : BitVec 32) (beats : List Beat) (s : State) : Host.Outcome State Fault Refusal :=
  .next (arrive (.write addr beats) s)

/-- The answer to a carried request: the M-link response, and for a read its beats, all 0 after an ERROR (R166, R174). -/
def answerThrough (r : Request) (resp : Response) (data : Chunk) (s : State) : State :=
  match r with
  | .read _ n => answer resp (if resp = .ok then readBeats n data else List.replicate n 0) s
  | .write _ _ => answer resp [] s

/-- The transaction of the carried request has ended (R174). -/
def endThrough (index : Nat) (resp : Response) (data : Chunk) (s : State) : State :=
  match s.inHand with
  | some (.through r true) => settle (answerThrough r resp data (land index s))
  | _ => land index s

/-- PASS_THROUGH_END (R174). -/
def execPassThroughEnd (index : Nat) (resp : Response) (data : Chunk) (s : State) : Host.Outcome State Fault Refusal :=
  .next
    (match (s.flightOf index fun p => decide (p = .passThrough)) with
     | some _ => endThrough index resp data s
     | none => s)

/-- M_LINK_GRANT (R177, R178). -/
def execMLinkGrant (s : State) : Host.Outcome State Fault Refusal := .next (grant s)

end Sys2Proof.Machine
end

