-- ==== Sys2Proof/Machine/PlanPage.lean ====
section
/-! DEFINITION. Machine/PlanPage.lean: the plan page writes that carry no command: PLAN_WRITE, EVENT_CLEAR_WORD, EVENT_LEVELS and
CLASS_WRITE (R5 to R7, R180, R189, R190). -/

namespace Sys2Proof.Machine

/-- PLAN_WRITE (R180). -/
def execPlanWrite (offset : BitVec 12) (beats : List Beat) (s : State) : Host.Outcome State Fault Refusal :=
  .next (arrive (.write (s.planAddr offset.toNat) beats) s)

/-- EVENT_CLEAR_WORD (R190). -/
def execEventClearWord (word : BitVec 32) (strobes : BitVec 4) (s : State) : Host.Outcome State Fault Refusal :=
  .next (arrive (.write (s.planAddr 0) [clearBeat word strobes]) s)

/-- EVENT_LEVELS (R189). -/
def execEventLevels (levels : BitVec 32) (strobes : BitVec 4) (s : State) : Host.Outcome State Fault Refusal :=
  .next (arrive (.write (s.planAddr 0x048) [levelsBeat levels strobes]) s)

/-- CLASS_WRITE (R6, R7). -/
def execClassWrite (offset : BitVec 11) (beats : List Beat) (s : State) : Host.Outcome State Fault Refusal :=
  .next (arrive (.write (s.planAddr (0x800 + offset.toNat)) beats) s)

end Sys2Proof.Machine
end

