-- ==== Sys2Proof/Machine/ResetLine.lean ====
section
/-! DEFINITION. Machine/ResetLine.lean: the RESET line: RESET_LINE_ASSERT and RESET_LINE_RELEASE (R168, R179, R182, R193). -/

namespace Sys2Proof.Machine

/-- Every block at its reset values, RST_N low, the request in hand and everything in flight abandoned without an
answer. The latched plan page address, the requests that wait and the answers already given stand (R4, R25, R42, R125,
R146, R179, R182, R188, R193). -/
def State.underReset (s : State) : State :=
  { State.reset with
    resetLow := true
    planBase := s.planBase
    waiting := s.waiting
    answers := s.answers
    pending := s.pending }

/-- RESET_LINE_ASSERT (R179). -/
def execResetLineAssert (s : State) : Host.Outcome State Fault Refusal := .next s.underReset

/-- The release: the straps are latched and requests can be taken, those that wait first (R165, R168, R179). -/
def releaseReset (psel1 psel0 : Bool) (s : State) : State :=
  takeAll s.waiting (((s.setWaiting []).setResetLow false).setPlanBase (strapAddress psel1 psel0))

/-- RESET_LINE_RELEASE; with RST_N already high nothing changes (R193, log 23). -/
def execResetLineRelease (psel1 psel0 : Bool) (s : State) : Host.Outcome State Fault Refusal :=
  .next (if s.resetLow then releaseReset psel1 psel0 s else s)

end Sys2Proof.Machine
end

