-- ==== Sys2Proof/Machine/Views.lean ====
section
/-! DEFINITION. Machine/Views.lean: the requests to the result views and the report page (R129, R172, R183). -/

namespace Sys2Proof.Machine

/-- RESULT_READ (R129). -/
def execResultRead (addr : BitVec 32) (beats : Nat) (s : State) : Host.Outcome State Fault Refusal :=
  .next (arrive (.read addr beats) s)

/-- RESULT_WRITE (R172). -/
def execResultWrite (addr : BitVec 32) (beats : List Beat) (s : State) : Host.Outcome State Fault Refusal :=
  .next (arrive (.write addr beats) s)

/-- REPORT_READ (R183). -/
def execReportRead (offset : BitVec 12) (beats : Nat) (s : State) : Host.Outcome State Fault Refusal :=
  .next (arrive (.read (s.reportAddr offset.toNat) beats) s)

/-- REPORT_WRITE (R172). -/
def execReportWrite (offset : BitVec 12) (beats : List Beat) (s : State) : Host.Outcome State Fault Refusal :=
  .next (arrive (.write (s.reportAddr offset.toNat) beats) s)

end Sys2Proof.Machine
end

