-- ==== Sys2Proof/Machine/Dispatch.lean ====
section
/-! DEFINITION. Machine/Dispatch.lean: the meaning of every command, one arm per constructor of Instr. -/

namespace Sys2Proof.Machine

/-- The effect of a command on everything but the queue. -/
def exec (i : Instr) (s : State) : Host.Outcome State Fault Refusal :=
  match i with
  | .resetLineAssert => Sys2Proof.Machine.execResetLineAssert s
  | .resetLineRelease psel1 psel0 => Sys2Proof.Machine.execResetLineRelease psel1 psel0 s
  | .passThroughRead addr beats => Sys2Proof.Machine.execPassThroughRead addr beats s
  | .passThroughWrite addr beats => Sys2Proof.Machine.execPassThroughWrite addr beats s
  | .passThroughEnd index resp data => Sys2Proof.Machine.execPassThroughEnd index resp data s
  | .planWrite offset beats => Sys2Proof.Machine.execPlanWrite offset beats s
  | .eventClearWord word strobes => Sys2Proof.Machine.execEventClearWord word strobes s
  | .eventLevels levels strobes => Sys2Proof.Machine.execEventLevels levels strobes s
  | .classWrite offset beats => Sys2Proof.Machine.execClassWrite offset beats s
  | .start burst => Sys2Proof.Machine.execStart burst s
  | .endRun burst => Sys2Proof.Machine.execEndRun burst s
  | .checkpoint burst => Sys2Proof.Machine.execCheckpoint burst s
  | .resume burst => Sys2Proof.Machine.execResume burst s
  | .commitDark burst => Sys2Proof.Machine.execCommitDark burst s
  | .dropDark burst => Sys2Proof.Machine.execDropDark burst s
  | .adoptLibrary burst => Sys2Proof.Machine.execAdoptLibrary burst s
  | .abort burst => Sys2Proof.Machine.execAbort burst s
  | .badCommand code burst => Sys2Proof.Machine.execBadCommand code burst s
  | .headerWrite addr beats => Sys2Proof.Machine.execHeaderWrite addr beats s
  | .captureWrite addr beats => Sys2Proof.Machine.execCaptureWrite addr beats s
  | .darkFetchEnd index resp data => Sys2Proof.Machine.execDarkFetchEnd index resp data s
  | .sectorFillEnd index resp data => Sys2Proof.Machine.execSectorFillEnd index resp data s
  | .evictionWritebackEnd index resp => Sys2Proof.Machine.execEvictionWritebackEnd index resp s
  | .flushWritebackEnd index resp => Sys2Proof.Machine.execFlushWritebackEnd index resp s
  | .contextWriteEnd index resp => Sys2Proof.Machine.execContextWriteEnd index resp s
  | .contextReadEnd index resp data => Sys2Proof.Machine.execContextReadEnd index resp data s
  | .commitRecordReadEnd index resp data => Sys2Proof.Machine.execCommitRecordReadEnd index resp data s
  | .planeWriteEnd index resp => Sys2Proof.Machine.execPlaneWriteEnd index resp s
  | .libraryWriteEnd index resp => Sys2Proof.Machine.execLibraryWriteEnd index resp s
  | .libraryReadEnd index resp data => Sys2Proof.Machine.execLibraryReadEnd index resp data s
  | .mLinkGrant => Sys2Proof.Machine.execMLinkGrant s
  | .captureRead addr beats => Sys2Proof.Machine.execCaptureRead addr beats s
  | .resultRead addr beats => Sys2Proof.Machine.execResultRead addr beats s
  | .resultWrite addr beats => Sys2Proof.Machine.execResultWrite addr beats s
  | .reportRead offset beats => Sys2Proof.Machine.execReportRead offset beats s
  | .reportWrite offset beats => Sys2Proof.Machine.execReportWrite offset beats s

end Sys2Proof.Machine
end

