-- ==== Sys2Proof/WellFormed.lean ====
section
/-! DEFINITION. WellFormed.lean: which terms of Instr are commands of their row: a request whose row says what it writes
writes that, and an answer names one of the 8 places of the transactions in flight. Nothing else is asked: a bad beat
count or address is a request the Window Decoder refuses (R167). -/

namespace Sys2Proof

open Machine (strobedBytes commandOf)

/-- The code of a command word that names a command (R147). -/
def isNamedCode (code : BitVec 16) : Bool :=
  [Machine.startCode, Machine.endCode, Machine.checkpointCode, Machine.resumeCode, Machine.commitDarkCode,
    Machine.dropDarkCode, Machine.adoptLibraryCode, Machine.abortCode].contains code

/-- Some byte is strobed. -/
def strobesSome (beats : List Beat) : Bool := beats.any fun b => decide (b.strobes ≠ 0)

/-- A burst at a plan page offset writes no field with behaviour of its own: no command word, no byte of the event clear
word, the event levels or the class window (R144, R189, R190, R6). -/
def plainPlanBurst (off : Nat) (beats : List Beat) : Bool :=
  (commandOf off beats).isNone
    && (strobedBytes off beats).all fun p =>
        !(decide (4 ≤ p.1) && decide (p.1 < 8)) && !(decide (0x04C ≤ p.1) && decide (p.1 < 0x050)) && decide (p.1 < 0x800)

/-- At most 8 transactions are in flight (R176). -/
def isPlace (index : Nat) : Bool := decide (index < 8)

/-- The well-formed commands. -/
def Instr.wf : Instr → Bool
  | .resetLineAssert => true
  | .resetLineRelease _ _ => true
  | .passThroughRead _ _ => true
  | .passThroughWrite _ _ => true
  | .passThroughEnd index _ _ => isPlace index
  | .planWrite offset beats => plainPlanBurst offset.toNat beats
  | .eventClearWord _ strobes => decide (strobes ≠ 0)
  | .eventLevels _ strobes => decide (strobes ≠ 0)
  | .classWrite _ beats => strobesSome beats
  | .start _ => true
  | .endRun _ => true
  | .checkpoint _ => true
  | .resume _ => true
  | .commitDark _ => true
  | .dropDark _ => true
  | .adoptLibrary _ => true
  | .abort _ => true
  | .badCommand code _ => !isNamedCode code
  | .headerWrite _ _ => true
  | .captureWrite _ _ => true
  | .darkFetchEnd index _ _ => isPlace index
  | .sectorFillEnd index _ _ => isPlace index
  | .evictionWritebackEnd index _ => isPlace index
  | .flushWritebackEnd index _ => isPlace index
  | .contextWriteEnd index _ => isPlace index
  | .contextReadEnd index _ _ => isPlace index
  | .commitRecordReadEnd index _ _ => isPlace index
  | .planeWriteEnd index _ => isPlace index
  | .libraryWriteEnd index _ => isPlace index
  | .libraryReadEnd index _ _ => isPlace index
  | .mLinkGrant => true
  | .captureRead _ _ => true
  | .resultRead _ _ => true
  | .resultWrite _ _ => true
  | .reportRead _ _ => true
  | .reportWrite _ _ => true

end Sys2Proof
end

