-- ==== Sys2Proof/Safety.lean ====
section
/-! DEFINITION. Safety.lean: the invariants that every step of the part keeps, and the words the statements use for when
a request is taken, what a command word finds, and what a fold, a result read or the request in hand comes to. -/

namespace Sys2Proof.Machine

/-! ## Invariants -/

/-- No pass count is above 16 (R178). -/
abbrev PassCounts.bounded (c : PassCounts) : Prop := ∀ r : Requester, c.of r ≤ 16

/-- The request cannot be taken now (R165). -/
def State.blocks (s : State) (r : Request) : Prop := s.inHand ≠ none ∨ s.resetLow = true ∨ s.holdsBack r = true

/-- At most 8 transactions are in flight, no pass count is above 16 (R176, R178), and the first request that waits cannot be
taken (R165). -/
abbrev State.linkInv (s : State) : Prop :=
  s.arb.inFlight.length ≤ 8 ∧ s.arb.passCounts.bounded ∧ ∀ r, s.waiting.head? = some r → s.blocks r

/-- The blocks that have landed and wait in hand (R50). -/
def State.blocksInHand (s : State) : List Block :=
  match s.inHand with
  | some (.capture cap) => cap.blocks
  | _ => []

/-- A subframe is open only in LOCKED, the bad-run count is at most 2 and is 0 outside LOCKED, while an automatic
checkpoint is under way its header burst is the request in hand and no subframe is open (R22, R25, R33, R35), the geometry
of a run or of a save under way is legal (R1, R150, R161), and no block whose fetches have ended, some in error, is left in
hand (R51). -/
abbrev State.lockInv (s : State) : Prop :=
  (s.hdr.opened.isSome = true → s.hdr.lock = .locked)
    ∧ (s.hdr.lock ≠ .locked → s.hdr.badRun = 0)
    ∧ s.hdr.badRun ≤ 2
    ∧ (s.cmd.saving = some .automatic → s.inHand = some .header ∧ s.hdr.opened = none)
    ∧ (s.cmd.run ≠ .idle ∨ s.cmd.saving ≠ none → s.cmd.snap.legal = true)
    ∧ (∀ b ∈ s.blocksInHand, b.isLost = false)

/-- The parts read so far, of an operation that reads several, are in canonical form. -/
def BulkOp.partsWf : BulkOp → Bool
  | .contextRead _ _ _ _ parts => Table.wf (0 : Chunk) parts
  | .recordRead _ _ _ _ parts => Table.wf (0 : Chunk) parts
  | .contextWrite _ _ _ _ _ => true
  | .planeWrite _ _ _ _ _ => true
  | .libraryWrite _ _ _ => true
  | .libraryRead _ _ => true

/-- The tables the part keeps by number are in canonical form: indices rising, nothing listed at its default (log 28). -/
abbrev State.tablesInv (s : State) : Prop :=
  Table.wf (.ground : TileClass) s.classes = true
    ∧ Table.wf (0 : BitVec 32) s.rep.counters = true
    ∧ Table.wf (none : Option Slot) s.dark.slots = true
    ∧ Table.wf (none : Option HistoryEntry) s.hdr.history = true
    ∧ Table.wf (none : Option Sector) s.cache.sectors = true
    ∧ Table.wf false s.cache.touched = true
    ∧ Table.wf false s.hdr.landing = true
    ∧ Table.wf (0 : Byte) s.hdr.line = true
    ∧ (s.cache.sectors.all fun p => p.2.all fun x => Table.wf x.fresh x.recs) = true
    ∧ (s.cache.fill.all fun f => Table.wf (0 : Chunk) f.parts) = true
    ∧ s.bulk.all BulkOp.partsWf = true

/-! ## When a request is taken (R165, R167, R170) -/

/-- The request a P-link row issues in a state (log 19). -/
def requestOf (s : State) : Instr → Option Request
  | .resetLineAssert => none
  | .resetLineRelease _ _ => none
  | .passThroughRead a n => some (.read a n)
  | .passThroughWrite a bs => some (.write a bs)
  | .passThroughEnd _ _ _ => none
  | .planWrite off bs => some (.write (s.planAddr off.toNat) bs)
  | .eventClearWord w st => some (.write (s.planAddr 0) [clearBeat w st])
  | .eventLevels l st => some (.write (s.planAddr 0x048) [levelsBeat l st])
  | .classWrite off bs => some (.write (s.planAddr (0x800 + off.toNat)) bs)
  | .start b => some (commandRequest startCode b s)
  | .endRun b => some (commandRequest endCode b s)
  | .checkpoint b => some (commandRequest checkpointCode b s)
  | .resume b => some (commandRequest resumeCode b s)
  | .commitDark b => some (commandRequest commitDarkCode b s)
  | .dropDark b => some (commandRequest dropDarkCode b s)
  | .adoptLibrary b => some (commandRequest adoptLibraryCode b s)
  | .abort b => some (commandRequest abortCode b s)
  | .badCommand code b => some (commandRequest code b s)
  | .headerWrite a bs => some (.write a bs)
  | .captureWrite a bs => some (.write a bs)
  | .darkFetchEnd _ _ _ => none
  | .sectorFillEnd _ _ _ => none
  | .evictionWritebackEnd _ _ => none
  | .flushWritebackEnd _ _ => none
  | .contextWriteEnd _ _ => none
  | .contextReadEnd _ _ _ => none
  | .commitRecordReadEnd _ _ _ => none
  | .planeWriteEnd _ _ => none
  | .libraryWriteEnd _ _ => none
  | .libraryReadEnd _ _ _ => none
  | .mLinkGrant => none
  | .captureRead a n => some (.read a n)
  | .resultRead a n => some (.read a n)
  | .resultWrite a bs => some (.write a bs)
  | .reportRead off n => some (.read (s.reportAddr off.toNat) n)
  | .reportWrite off bs => some (.write (s.reportAddr off.toNat) bs)

/-- A row that issues a request: what becomes of it follows from its address alone (log 19). -/
def arrivalOf : Request → Instr
  | .read a n => .passThroughRead a n
  | .write a beats => .passThroughWrite a beats

/-- `t` is what a state in which nothing waits becomes once the requests of a list are taken in order, each as though it
arrived then, until one cannot be taken: it and those behind it wait (R165). -/
def State.admits : List Request → State → State → Prop
  | [], s, t => t = s
  | r :: rest, s, t =>
    (¬s.blocks r → ∃ u, exec (arrivalOf r) s = .next u ∧ State.admits rest u t)
    ∧ (s.blocks r → t = { s with waiting := r :: rest })

/-- Nothing is in hand, nothing waits and RST_N is high. -/
abbrev State.isFree (s : State) : Prop := s.inHand = none ∧ s.waiting = [] ∧ s.resetLow = false

/-- A request that arrives is taken at once, the tests of R167 pass, and its bytes lie in window `w`. -/
abbrev State.takesIn (s : State) (r : Request) (w : Window) : Prop :=
  s.isFree ∧ s.holdsBack r = false ∧ s.refuses r = false ∧ s.windowOf r.addr.toNat = w

/-- A plan page write is taken, snooped and carried to DRAM. -/
abbrev State.takesPlan (s : State) (r : Request) : Prop := s.takesIn r .plan ∧ s.isProtected r = false

/-- The request is in hand, to be carried to DRAM (R174). -/
def State.carrying (s : State) (r : Request) : State := { s with inHand := some (.through r false) }

/-- An answer has been given on the P-link. -/
def State.answering (s : State) (resp : Response) (beats : List (BitVec 64)) : State :=
  { s with answers := s.answers ++ [⟨resp, beats⟩] }

/-! ## What a command word finds (R144 to R147) -/

/-- The command word a row writes: its code and its burst. -/
def commandRow : Instr → Option (BitVec 16 × CommandBurst)
  | .start b => some (startCode, b)
  | .endRun b => some (endCode, b)
  | .checkpoint b => some (checkpointCode, b)
  | .resume b => some (resumeCode, b)
  | .commitDark b => some (commitDarkCode, b)
  | .dropDark b => some (dropDarkCode, b)
  | .adoptLibrary b => some (adoptLibraryCode, b)
  | .abort b => some (abortCode, b)
  | .badCommand code b => some (code, b)
  | _ => none

/-- The state a command word of a burst arrives in: the other plan fields of the burst have their new values and the
event clear word has acted (R144, R180, R190). -/
def State.afterFields (s : State) (code : BitVec 16) (b : CommandBurst) : State :=
  let bytes := strobedBytes 0 (commandBeats code b)
  { s with
    cmd := { s.cmd with plan := bytes.foldl Plan.setByte s.cmd.plan }
    rep := { s.rep with raised := s.rep.raised &&& ~~~((clearWordOf bytes).setWidth 9) } }

/-- The same state with the command taken: the count has risen and the record holds it, pending (R146). -/
def State.atCommand (s : State) (code : BitVec 16) (b : CommandBurst) : State :=
  let p := s.afterFields code b
  { p with cmd := { p.cmd with taken := s.cmd.taken + 1, record := ⟨code, b.arg, none, 0⟩ } }

/-- A command word of a burst is taken in READY (R144, R145). -/
abbrev State.takesCommand (s : State) (code : BitVec 16) (b : CommandBurst) : Prop :=
  s.takesPlan (commandRequest code b s) ∧ s.cmd.inFlight = none

/-- The command has its outcome, the unit is READY and COMMAND_DONE (bit 2) is pending (R146). -/
def State.withOutcome (s : State) (o : CommandOutcome) : State :=
  { s with
    cmd := { s.cmd with inFlight := none, record := { s.cmd.record with outcome := some o } }
    rep := { s.rep with raised := s.rep.raised ||| 4 } }

/-- A long command has been accepted: the unit is BUSY (R145). -/
def State.accepted (s : State) (c : LongCommand) (arg : BitVec 16) : State :=
  { s with cmd := { s.cmd with inFlight := some (c, arg) } }

/-- The run states that the table of R147 allows a command in, and the mode it asks for. -/
def allowedNow (code : BitVec 16) (s : State) : Bool :=
  if code = startCode ∨ code = dropDarkCode ∨ code = adoptLibraryCode then
    decide (s.cmd.run = .idle ∨ s.cmd.run = .ended)
  else if code = endCode ∨ code = checkpointCode then decide (s.cmd.run = .running)
  else if code = resumeCode then decide (s.cmd.run = .idle)
  else if code = commitDarkCode then decide (s.cmd.run = .ended ∧ s.cmd.mode = .dark)
  else true

/-- The outcome with which a command is refused when it is taken in READY: the checks of R147 in their order, with the
own checks of START (R150, R152) and COMMIT_DARK (R56); none where it passes. -/
def refusalOf (code arg : BitVec 16) (s : State) : Option CommandOutcome :=
  if isNamedCode code = false ∨ (code = startCode ∧ 1 < arg.toNat) then some .badCommand
  else if (code = commitDarkCode ∨ code = dropDarkCode) ∧ 3 < arg.toNat then some .badSlot
  else if allowedNow code s = false then some .wrongState
  else if code = startCode then
    if s.cmd.plan.frozen.usable s.planBase = false then some .badPlan
    else if darkTest (startMode arg) s.cmd.plan.frozen s.dark = false then some .noDark
    else none
  else if code = commitDarkCode ∧ s.hdr.folded = 0 then some .emptyRun
  else none

/-! ## Flushes and transactions -/

/-- `t` is the state `q` with a flush begun: the lowest DIRTY sector is being written back, or, with none, the context
write begins from the values as they stand (R123, R124, R154, R155). -/
def State.beginsFlush (q t : State) : Prop :=
  (∀ j x, j < 32 → q.cache.sector j = some x → x.state = .dirty → (∀ k, k < j → q.cache.stateIs k .dirty = false) →
    t = { q with cache := { q.cache.setSector j (some { x with state := .writing }) with
            flush := some ⟨j, false⟩, writeback := some ⟨j, true, 0, 0, false⟩ } })
  ∧ ((∀ k, k < 32 → q.cache.stateIs k .dirty = false) →
    t = { q with cache := { q.cache with flush := none },
                 bulk := some (.contextWrite q.cmd.snap.ckptBase q.contextParts false 0 false) })

/-- `v` is the state `q` with its command stopped by ABORT: the effects of R163, and the outcome DONE (R164). -/
def State.stopsInto (q v : State) : Prop :=
  v.cmd = { q.cmd with run := .idle, saving := none, aborting := false, inFlight := none,
                       record := { q.cmd.record with outcome := some .done } }
  ∧ v.bulk = none
  ∧ v.hdr = { q.hdr.closeSubframe with lock := .hunt, badRun := 0, received := 0 }
  ∧ v.dark = { q.dark with slots := v.dark.slots }
  ∧ (Table.wf none q.dark.slots = true → ∀ k, Table.get none v.dark.slots k =
      match q.dark.slot k with
      | some x => if x.building = true then none else some x
      | none => none)
  ∧ v.cache = { TileCache.reset with firstFillError := q.cache.firstFillError }
  ∧ v.rep = { q.rep with raised := q.rep.raised ||| 4 }
  ∧ v.arb.passCounts = q.arb.passCounts
  ∧ v.arb.inFlight = q.arb.inFlight.map (fun f =>
      match f.purpose with
      | .fill _ => { f with purpose := .droppedFill }
      | _ => f)
  ∧ v.rot = q.rot ∧ v.classes = q.classes ∧ v.inHand = q.inHand ∧ v.waiting = q.waiting ∧ v.answers = q.answers
  ∧ v.planBase = q.planBase ∧ v.resetLow = q.resetLow ∧ v.pending = q.pending

/-- `v` is a value that a record with n of 1 or more shows under a class: the scaled mean, the greater of it and the scaled
peak for TRAIL, each rounded half-even and held at 65535 (R134, R135). -/
def Plan.shows (p : Plan) (cls : TileClass) (r : Rec) (v : BitVec 16) : Prop :=
  ∃ m k : Nat,
    (let num := r.sum.toNat * p.gain.toNat
     let den := 256 * r.n.toNat
     2 * max (num - m * den) (m * den - num) ≤ den ∧ (2 * max (num - m * den) (m * den - num) = den → m % 2 = 0))
    ∧ (let num := r.peak.toNat * p.trailGain.toNat
       2 * max (num - k * 256) (k * 256 - num) ≤ 256 ∧ (2 * max (num - k * 256) (k * 256 - num) = 256 → k % 2 = 0))
    ∧ v.toNat = if cls = .trail then max (min 65535 m) (min 65535 k) else min 65535 m

/-! ## The Tile Cache (R112 to R117) -/

/-- Sector `k` is eligible as a victim: not held, and CLEAN, or DIRTY while no flush is in progress (R116, step 2). -/
def TileCache.mayLeave (c : TileCache) (k : Nat) : Prop :=
  ∃ x, c.sector k = some x ∧ x.held = false ∧ (x.state = .clean ∨ (x.state = .dirty ∧ c.flush = none))

/-- Sector `i` is the victim: no sector is FREE and `i` is the least recent eligible one (R116, step 2). -/
def TileCache.leaves (c : TileCache) (i : Nat) : Prop :=
  (∀ k, k < 32 → c.sector k ≠ none)
  ∧ ∃ before after, c.recency = before ++ i :: after ∧ c.mayLeave i ∧ ∀ k, k ∈ after → ¬c.mayLeave k

/-- An allocation takes sector `i` at once: the lowest FREE one, or a CLEAN victim (R116, steps 1 and 3). -/
def TileCache.takes (c : TileCache) (i : Nat) : Prop :=
  i < 32 ∧ ((c.sector i = none ∧ ∀ k, k < i → c.sector k ≠ none) ∨ (c.leaves i ∧ c.stateIs i .clean = true))

/-- No sector holds the tile. -/
def TileCache.lacks (c : TileCache) (tile : Nat) : Prop := ∀ k x, k < 32 → c.sector k = some x → x.tile ≠ tile

/-- Sector `i` holds the tile, with the contents `x`. -/
def TileCache.keeps (c : TileCache) (i tile : Nat) (x : Sector) : Prop :=
  i < 32 ∧ c.sector i = some x ∧ x.tile = tile ∧ ∀ k y, k < i → c.sector k = some y → y.tile ≠ tile

/-- Sector `i` can serve a fold's access to a tile at once, holding what `x` holds: it holds the tile, CLEAN or DIRTY
(R112), or no sector holds it, its touched mark is clear and an allocation takes `i` (R113, R116). -/
def State.servesFold (s : State) (i tile : Nat) (x : Sector) : Prop :=
  (s.cache.keeps i tile x ∧ (x.state = .clean ∨ x.state = .dirty))
  ∨ (s.cache.takes i ∧ s.cache.lacks tile ∧ s.cache.isTouched tile = false
      ∧ x = ⟨.clean, tile, false, false, ⟨0, 0, s.cmd.snap.devinit, 0, 0⟩, []⟩)

/-- The cache with the fill of a tile begun in sector `i` (R114, R118). -/
def State.fillBegun (s : State) (i tile : Nat) : TileCache :=
  { s.cache with
    sectors := Table.set none s.cache.sectors i
      (some ⟨.filling, tile, false, false, ⟨0, 0, s.cmd.snap.devinit, 0, 0⟩, []⟩)
    recency := i :: s.cache.recency.filter fun k => decide (k ≠ i)
    fill := some ⟨tile, i, 0, 0, false, []⟩ }

/-- An access to a tile that has to wait leaves a cache of which `waits` holds: as it stands where the tile's sector is
FILLING; for a tile in no sector with its fill begun where it is touched and an allocation takes a sector at once; with the
eviction of a DIRTY victim begun; and as it stands where none is eligible (R112, R114, R116, R117). -/
def State.accessWaits (s : State) (tile : Nat) (waits : TileCache → Prop) : Prop :=
  (∀ i x, s.cache.keeps i tile x → x.state = .filling → waits s.cache)
  ∧ (s.cache.lacks tile →
    (∀ i, s.cache.takes i → s.cache.isTouched tile = true → waits (s.fillBegun i tile))
    ∧ (∀ i x, s.cache.leaves i → s.cache.sector i = some x → x.state = .dirty →
      waits { s.cache.setSector i (some { x with state := .writing }) with writeback := some ⟨i, false, 0, 0, false⟩ })
    ∧ ((∀ k, k < 32 → s.cache.sector k ≠ none) → (∀ k, k ∈ s.cache.recency → ¬s.cache.mayLeave k) → waits s.cache))

/-- The state with every held count 0 (R110). -/
def State.released (s : State) : State :=
  { s with cache := { s.cache with sectors := s.cache.sectors.map fun p => (p.1, p.2.map fun x => { x with held := false }) } }

/-- The beats of a 128-byte write: every strobe set, byte `b` of the 128 as given (R176). -/
def beatsCarry (beats : List Beat) (byte : Nat → Byte) : Prop :=
  beats.length = 16 ∧ ∀ b, b < 128 → ∃ x, beats[b / 8]? = some x ∧ x.strobes = 0xFF ∧ byteOf x.data (b % 8) = byte b

/-- The 12 bytes of a record in DRAM (section 11.4). -/
def Rec.fields (r : Rec) : List Field :=
  [⟨0, 4, r.sum.toNat⟩, ⟨4, 2, r.n.toNat⟩, ⟨6, 2, r.dev.toNat⟩, ⟨8, 2, r.peak.toNat⟩, ⟨10, 2, r.stamp.toNat⟩]

/-- The transaction at a place of the list is no longer in flight. -/
def State.landed (s : State) (index : Nat) : State :=
  { s with arb := { s.arb with inFlight := s.arb.inFlight.eraseIdx index } }

/-- The transaction at place `index` is in flight for the purpose `p`. -/
def State.flying (s : State) (index : Nat) (p : Purpose) : Prop :=
  ∃ txn, s.arb.inFlight[index]? = some ⟨p, txn⟩

/-! ## The landing of blocks (R11, R37) -/

/-- The state with a block of the open subframe `sub` landed: its mark `key` is set and it is counted (R37). -/
def State.landing (s : State) (sub : Subframe) (key : Nat) : State :=
  { count .blocksLanded 1 s with
    hdr := { s.hdr with landing := Table.set false s.hdr.landing key true
                        opened := some { sub with landed := sub.landed + 1 } } }

/-- A well-formed burst to the image rows of a RUNNING run with the subframe `sub` open, its first byte `off` bytes into the
rows (R9, R10). -/
abbrev State.takesImage (s : State) (sub : Subframe) (addr : BitVec 32) (beats : List Beat) (off : Nat) : Prop :=
  s.takesIn (.write addr beats) .capture ∧ s.cmd.run = .running ∧ s.hdr.opened = some sub
  ∧ addr.toNat = s.cmd.snap.captureBase.toNat + 4096 + off ∧ addr.toNat % 64 = 0 ∧ ∀ b, b ∈ beats → b.strobes = 0xFF

/-- Whether offset `o` of the image rows is of a block, not of padding. -/
abbrev Frozen.hasBlock (f : Frozen) (o : Nat) : Prop := o % f.pitch.toNat < 2 * f.width.toNat

/-- The landing mark of the block at offset `o` of the image rows (R37). -/
def Frozen.markAt (f : Frozen) (o : Nat) : Nat := o / f.pitch.toNat * (f.width.toNat / 32) + o % f.pitch.toNat / 64

/-- Just one block of the burst lands, at offset `o` with the beats `bs`; the other unit of a 16-beat burst is padding or is
counted as a repeat. `q` is the state then, before the block goes on (R11, R37). -/
def State.landsOne (s : State) (sub : Subframe) (addr : BitVec 32) (beats : List Beat) (o : Nat) (bs : List Beat)
    (q : State) : Prop :=
  let f := s.cmd.snap
  let seen (o : Nat) := Table.get false s.hdr.landing (f.markAt o) = true
  let skipped (o : Nat) (v : State) := if f.hasBlock o then count .repeatBlocks 1 v else v
  ∃ off, s.takesImage sub addr beats off ∧ f.hasBlock o ∧ ¬seen o
  ∧ ((beats.length = 8 ∧ o = off ∧ bs = beats ∧ q = s.landing sub (f.markAt o))
    ∨ (beats.length = 16 ∧ o = off ∧ bs = beats.take 8 ∧ (f.hasBlock (off + 64) → seen (off + 64))
        ∧ q = skipped (off + 64) (s.landing sub (f.markAt o)))
    ∨ (beats.length = 16 ∧ o = off + 64 ∧ bs = beats.drop 8 ∧ (f.hasBlock off → seen off)
        ∧ q = (skipped off s).landing sub (f.markAt o)))

/-- Both blocks of a 16-beat burst land, the first at offset `o`; `q` is the state then (R11, R37; log 30). -/
def State.landsBoth (s : State) (sub : Subframe) (addr : BitVec 32) (beats : List Beat) (o : Nat) (q : State) : Prop :=
  let f := s.cmd.snap
  let seen (o : Nat) := Table.get false s.hdr.landing (f.markAt o) = true
  s.takesImage sub addr beats o ∧ beats.length = 16 ∧ f.hasBlock o ∧ f.hasBlock (o + 64) ∧ ¬seen o ∧ ¬seen (o + 64)
  ∧ f.markAt (o + 64) ≠ f.markAt o
  ∧ q = (s.landing sub (f.markAt o)).landing { sub with landed := sub.landed + 1 } (f.markAt (o + 64))

/-! ## The fold of a block (R73 to R90) -/

/-- How many of the samples `c` to 31 satisfy a test. -/
def samplesFrom (c : Nat) (test : Nat → Bool) : Nat := (List.range 32).countP fun col => decide (c ≤ col) && test col

/-- From `s` to `t` nothing has changed but the sectors, their recency, the touched marks and the counters: all that a fold
without a wait can reach. -/
def State.foldsOnly (s t : State) : Prop :=
  t.cache.flush = s.cache.flush ∧ t.cache.fill = s.cache.fill ∧ t.cache.writeback = s.cache.writeback
  ∧ t.cache.firstFillError = s.cache.firstFillError
  ∧ t.rep = { s.rep with counters := t.rep.counters }
  ∧ t.hdr = s.hdr ∧ t.dark = s.dark ∧ t.rot = s.rot ∧ t.cmd = s.cmd ∧ t.arb = s.arb ∧ t.bulk = s.bulk
  ∧ t.classes = s.classes ∧ t.inHand = s.inHand ∧ t.waiting = s.waiting ∧ t.answers = s.answers
  ∧ t.planBase = s.planBase ∧ t.resetLow = s.resetLow ∧ t.pending = s.pending

/-- `t` is `s` after samples `c` to 31 of row `row` of tile `tile`, which sector `i` serves holding what `x` holds and then
is held: `e col` is what the sample of a column makes of its record, none where the pixel is hot. -/
def State.rowFolded (s t : State) (c i tile row : Nat) (x : Sector) (e : Nat → Option (Fate × Rec)) : Prop :=
  let wrote (col : Nat) : Bool := (e col).any fun p => decide (p.1 ≠ .collided)
  let ends (f : Fate) : Nat := samplesFrom c fun col => (e col).any fun p => decide (p.1 = f)
  (∃ y, t.cache.sector i = some y
    ∧ y.tile = tile ∧ y.held = true ∧ y.failedOnce = x.failedOnce ∧ y.fresh = x.fresh
    ∧ y.state = (if samplesFrom c wrote = 0 then x.state else .dirty)
    ∧ (∀ col, c ≤ col → col < 32 →
        y.rec_ (row % 32 * 32 + col) = ((e col).map Prod.snd).getD (x.rec_ (row % 32 * 32 + col)))
    ∧ ∀ pos, (pos < row % 32 * 32 + c ∨ row % 32 * 32 + 32 ≤ pos) → y.rec_ pos = x.rec_ pos)
  ∧ (∀ k, k ≠ i → t.cache.sector k = s.cache.sector k)
  ∧ t.cache.recency = i :: s.cache.recency.filter (fun k => decide (k ≠ i))
  ∧ (∀ k, t.cache.isTouched k = ((decide (k = tile) && decide (samplesFrom c wrote ≠ 0)) || s.cache.isTouched k))
  ∧ (∀ r, (t.counter r).toNat = min 4294967295 ((s.counter r).toNat +
      match r with
      | .hotSkips => samplesFrom c fun col => (e col).isNone
      | .collided => ends .collided
      | .saturated => ends .saturated
      | .rejected => ends .rejected
      | _ => 0))
  ∧ s.foldsOnly t

/-- A record that reads `r` before a block, once samples 0 to `n` - 1 have come: those whose place (sector and tile
position, none for one that reaches no record) is `p` reach it in column order (R73, R81). -/
def recAfter (place : Nat → Option (Nat × Nat)) (absorb : Nat → Rec → Fate × Rec) (p : Nat × Nat) (r : Rec) (n : Nat) : Rec :=
  (List.range n).foldl (fun r col => if place col = some p then (absorb col r).2 else r) r

/-- `t` is `s` after samples `c` to 31 of a TRACK block whose places lie in sectors that hold their tiles and then are held:
`absorb col` is what the sample of a column makes of a record; `hot` says which pixels are hot, and the others without a place
are spilled (R76, R79, R88, R100 to R103, R109, R110). -/
def State.turnFolded (s t : State) (c : Nat) (hot : Nat → Bool) (place : Nat → Option (Nat × Nat))
    (absorb : Nat → Rec → Fate × Rec) : Prop :=
  let reach (col : Nat) : Option (Nat × Nat) := if c ≤ col then place col else none
  let fate (col : Nat) : Option Fate := (reach col).bind fun p =>
    (s.cache.sector p.1).map fun x => (absorb col (recAfter reach absorb p (x.rec_ p.2) col)).1
  let wrote (col : Nat) : Bool := (fate col).any fun e => decide (e ≠ .collided)
  let comesTo (i col : Nat) : Bool := (reach col).any fun p => decide (p.1 = i)
  let ends (f : Fate) : Nat := samplesFrom c fun col => decide (fate col = some f)
  (∀ i, s.cache.sector i = none → t.cache.sector i = none)
  ∧ (∀ i x, s.cache.sector i = some x → ∃ y, t.cache.sector i = some y
    ∧ y.tile = x.tile ∧ y.held = (x.held || decide (0 < samplesFrom c (comesTo i))) ∧ y.failedOnce = x.failedOnce
    ∧ y.fresh = x.fresh
    ∧ y.state = (if samplesFrom c (fun col => comesTo i col && wrote col) = 0 then x.state else .dirty)
    ∧ ∀ pos, y.rec_ pos = recAfter reach absorb (i, pos) (x.rec_ pos) 32)
  ∧ t.cache.recency = (List.range 32).foldl (fun order col =>
      match reach col with
      | some p => p.1 :: order.filter fun k => decide (k ≠ p.1)
      | none => order) s.cache.recency
  ∧ (∀ tile, t.cache.isTouched tile = (s.cache.isTouched tile || decide (0 < samplesFrom c fun col =>
      wrote col && (reach col).any fun p => (s.cache.sector p.1).any fun x => decide (x.tile = tile))))
  ∧ (∀ r, (t.counter r).toNat = min 4294967295 ((s.counter r).toNat +
      match r with
      | .hotSkips => samplesFrom c hot
      | .spilled => samplesFrom c fun col => (place col).isNone && !hot col
      | .collided => ends .collided
      | .saturated => ends .saturated
      | .rejected => ends .rejected
      | _ => 0))
  ∧ s.foldsOnly t

/-- The class a sample or a pixel of a tile has: GROUND in a DARK run, else the tile's (R75, R132). -/
def State.classAt (u : State) (tile : Nat) : TileClass := if u.cmd.mode = .dark then .ground else u.classOf tile

/-- The tile and the tile position of the record that the sample of column `col` of `g` is sent to: its own, or on a TRACK tile
the one it is turned to, none where that lies off the image or in a tile that is not TRACK (R79, R100 to R103). -/
def State.sends (u : State) (g : Fold) (col : Nat) : Option (Nat × Nat) :=
  let f := u.cmd.snap
  let tile := g.row / 32 * (f.width.toNat / 32) + g.block
  if u.classAt tile = .track then
    match destination f g.c g.s (32 * g.block + col) g.row with
    | some (x, y) =>
      let dest := y / 32 * (f.width.toNat / 32) + x / 32
      if u.classOf dest = .track then some (dest, y % 32 * 32 + x % 32) else none
    | none => none
  else some (tile, g.row % 32 * 32 + col)

/-- `u` after a sample has come to its record at `pos` of sector `i`, which serves it holding what `x` holds: `p` is the
sample's end and what it makes of the record. The sector is held and most recent, and DIRTY with its tile touched unless the
sample collided; a collided, saturated or rejected sample is counted (R81 to R90, R109, R110, R115). -/
def State.sampled (u : State) (i pos : Nat) (x : Sector) (p : Fate × Rec) : State :=
  let v := match p.1 with
    | .collided => count .collided 1 u
    | .saturated => count .saturated 1 u
    | .rejected => count .rejected 1 u
    | .trail => u
    | .accepted => u
  let y := if p.1 = .collided then { x with held := true } else
    { x with held := true, state := .dirty, recs := Table.set x.fresh x.recs pos p.2 }
  { v with cache := { u.cache.setSector i (some y) with
      recency := i :: u.cache.recency.filter fun k => decide (k ≠ i)
      touched := if p.1 = .collided then u.cache.touched else Table.set false u.cache.touched x.tile true } }

/-- What the next sample of `g` comes to in `u`, `ended` or `waits` holding of the state then. On an EXCLUDE tile it is
dropped; a hot pixel is skipped and counted; one that is sent nowhere is spilled and counted; else it comes to the record it
is sent to, in a sector that serves the tile, or waits (R73 to R90, R100, R112 to R117). -/
def State.sampleLeadsTo (u : State) (g : Fold) (ended waits : State → Prop) : Prop :=
  let f := u.cmd.snap
  let cls := u.classAt (g.row / 32 * (f.width.toNat / 32) + g.block)
  let dark := g.darks.getD g.column (.level 0)
  (cls = .exclude → ended u)
  ∧ (cls ≠ .exclude → dark = .hot → ended (count .hotSkips 1 u))
  ∧ (cls ≠ .exclude → ∀ d, dark = .level d →
    (u.sends g g.column = none → ended (count .spilled 1 u))
    ∧ ∀ tile pos, u.sends g g.column = some (tile, pos) →
      (∀ i x, u.servesFold i tile x →
        ended (u.sampled i pos x ((x.rec_ pos).absorb f cls g.index (g.values.getD g.column 0) d)))
      ∧ u.accessWaits tile fun cache => waits { u with cache := cache })

/-- What the next `n` samples of `g` come to in `u`, one after another: `done` where all have ended, or `waits` where one
waits, with the fold as it then stands (R73, R74). -/
def State.samplesLeadTo (done : State → Prop) (waits : State → Fold → Prop) : Nat → Fold → State → Prop
  | 0, _, u => done u
  | n + 1, g, u =>
    u.sampleLeadsTo g (State.samplesLeadTo done waits n { g with column := g.column + 1 }) fun v => waits v g

/-- What the fold of `g` from its next column on comes to in `u`: `done m` where all its samples end, `m` being the state
then, its sectors still held; `waits v g'` where it has come to `g'` and waits, `v` being the state then. So it is sample by
sample. In sum: on a GROUND or TRAIL tile, any tile of a DARK run, or a TRACK tile under no turn, all but the hot ones reach
their own records, in a sector that serves the tile. On a TRACK tile those sent to TRACK tiles that sectors hold reach their
records, the others are spilled (R73 to R90, R100, R112 to R117). -/
def State.foldLeadsTo (u : State) (g : Fold) (done : State → Prop) (waits : State → Fold → Prop) : Prop :=
  let f := u.cmd.snap
  let tile := g.row / 32 * (f.width.toNat / 32) + g.block
  let cls := u.classAt tile
  let dark (col : Nat) : DarkValue := g.darks.getD col (.level 0)
  let absorb (col : Nat) (r : Rec) : Fate × Rec := r.absorb f cls g.index (g.values.getD col 0)
    (match dark col with
     | .level d => d
     | .hot => 0)
  let straight := cls = .ground ∨ cls = .trail ∨ (cls = .track ∧ g.c = 2 ^ 30 ∧ g.s = 0
    ∧ 32 * g.block + 32 ≤ f.width.toNat ∧ g.row < f.height.toNat)
  let allHot (c : Nat) := ∀ col, g.column ≤ col → col < c → dark col = .hot
  let skipped (c : Nat) := if c = g.column then u else count .hotSkips (c - g.column) u
  u.samplesLeadTo done waits (32 - g.column) g
  ∧ (straight → ∀ c, g.column ≤ c → c < 32 → allHot c → dark c ≠ .hot → ∀ i x, u.servesFold i tile x →
      ∃ m, done m ∧ (skipped c).rowFolded m c i tile g.row x (fun col =>
        if dark col = .hot then none else some (absorb col (x.rec_ (g.row % 32 * 32 + col)))))
  ∧ (cls = .track → ∀ place : Nat → Option (Nat × Nat),
      (∀ col, g.column ≤ col → col < 32 →
        match (if dark col = .hot then none else u.sends g col) with
        | some (dest, pos) =>
          ∃ i x, place col = some (i, pos) ∧ u.cache.keeps i dest x ∧ (x.state = .clean ∨ x.state = .dirty)
        | none => place col = none) →
      ∃ m, done m ∧ u.turnFolded m g.column (fun col => decide (dark col = .hot)) place absorb)

/-- The state once a capture burst has been dealt with: its sectors are released and it is answered OK (R11, R110). -/
def State.burstEnds (m : State) : State := { m.released with inHand := none }.answering .ok []

/-- A fetch of the block has not ended (R50). -/
def Block.awaits (b : Block) : Bool :=
  let opens (f : Fetch) : Bool := decide (f.state = .wanted ∨ f.state = .placed)
  b.fetchA.any opens || b.fetchB.any opens

/-- The block's fetches have ended, some in error (R51). -/
def Block.spoiled (b : Block) : Bool :=
  let failed (f : Fetch) : Bool := decide (f.state = .failed)
  !b.awaits && (b.fetchA.any failed || b.fetchB.any failed)

/-- The dark value of a column of the block: that of the 64 bytes fetched for its slot or for its two (R50, R52, R53). -/
def Block.darkAt (b : Block) (col : Nat) : DarkValue :=
  let value (f : Fetch) : Option (BitVec 16 × BitVec 16) :=
    match f.state with
    | .ended data => some (data.extractLsb' (16 * col) 16, f.scale)
    | _ => none
  darkOf (b.fetchA.bind value) (b.fetchB.bind value) b.weight

/-- The fold of the block in the open subframe `sub` (R73). -/
def Block.foldIn (b : Block) (sub : Subframe) : Fold :=
  ⟨b.row, b.block, b.values, (List.range 32).map b.darkAt, sub.index, sub.c, sub.s, 0⟩

/-- What the landed blocks of a burst, none of them spoiled, come to in `u`, in the order in which they landed: the first waits
for its fetches, with those behind it, or folds; after the last the burst is answered OK (R11, R50, R73, R74). -/
def State.blocksLeadTo (out : State → Prop) : List Block → State → Prop
  | [], u => out u.burstEnds
  | b :: rest, u =>
    (b.awaits = true → out { u with inHand := some (.capture ⟨none, b :: rest⟩) })
    ∧ (b.awaits = false → ∀ sub, u.hdr.opened = some sub →
      u.foldLeadsTo (b.foldIn sub) (State.blocksLeadTo out rest)
        fun v g => out { v with inHand := some (.capture ⟨some g, rest⟩) })

/-! ## Result reads (R128 to R137) -/

/-- What asking for the record at position `pos` of a tile comes to for a result read: `got t r` where a sector that is not
FILLING holds the tile, the sector held and most recent in `t`, or, with `r` fresh, where none holds it and it is untouched;
`waits t` where it has to wait (R69, R109, R110, R112 to R114, R116, R117). -/
def State.recordLeadsTo (u : State) (tile pos : Nat) (got : State → Rec → Prop) (waits : State → Prop) : Prop :=
  (∀ i x, u.cache.keeps i tile x → x.state ≠ .filling →
    got { u with cache := { u.cache.setSector i (some { x with held := true }) with
      recency := i :: u.cache.recency.filter fun k => decide (k ≠ i) } } (x.rec_ pos))
  ∧ (u.cache.lacks tile → u.cache.isTouched tile = false → got u ⟨0, 0, u.cmd.snap.devinit, 0, 0⟩)
  ∧ ((u.cache.lacks tile → u.cache.isTouched tile = true) → u.accessWaits tile fun cache => waits { u with cache := cache })

/-- A pixel of the grid `f` whose right neighbour is consulted shows it, or else the fill value (R137, rules 2 and 3). -/
def State.rightLeadsTo (f : Frozen) (x y : Nat) (value : State → BitVec 16 → Prop) (waits : State → PixelStage → Prop)
    (u : State) : Prop :=
  let tile := y / 32 * (f.width.toNat / 32) + (x + 2) / 32
  let usable := x + 2 < f.width.toNat ∧ u.classAt tile ≠ .exclude
  (¬usable → value u u.cmd.plan.fill)
  ∧ (usable → u.recordLeadsTo tile (y % 32 * 32 + (x + 2) % 32)
      (fun t r => (r.n = 0 → value t u.cmd.plan.fill)
        ∧ (r.n ≠ 0 → ∃ v, u.cmd.plan.shows (u.classAt tile) r v ∧ value t v))
      fun t => waits t .right)

/-- A pixel whose left neighbour is consulted shows it, or goes on to the right one (R137, rule 1). -/
def State.leftLeadsTo (f : Frozen) (x y : Nat) (value : State → BitVec 16 → Prop) (waits : State → PixelStage → Prop)
    (u : State) : Prop :=
  let tile := y / 32 * (f.width.toNat / 32) + (x - 2) / 32
  let usable := 2 ≤ x ∧ u.classAt tile ≠ .exclude
  (¬usable → u.rightLeadsTo f x y value waits)
  ∧ (usable → u.recordLeadsTo tile (y % 32 * 32 + (x - 2) % 32)
      (fun t r => (r.n = 0 → t.rightLeadsTo f x y value waits)
        ∧ (r.n ≠ 0 → ∃ v, u.cmd.plan.shows (u.classAt tile) r v ∧ value t v))
      fun t => waits t .left)

/-- A pixel of the image view: the fill value under EXCLUDE; the finished value of its record where n is 1 or more; 65535 where
n is 0 and the peak 65535; else a neighbour's (R133 to R137). -/
def State.ownLeadsTo (f : Frozen) (x y : Nat) (value : State → BitVec 16 → Prop) (waits : State → PixelStage → Prop)
    (u : State) : Prop :=
  let tile := y / 32 * (f.width.toNat / 32) + x / 32
  (u.classAt tile = .exclude → value u u.cmd.plan.fill)
  ∧ (u.classAt tile ≠ .exclude → u.recordLeadsTo tile (y % 32 * 32 + x % 32)
      (fun t r => (r.n ≠ 0 → ∃ v, u.cmd.plan.shows (u.classAt tile) r v ∧ value t v)
        ∧ (r.n = 0 → r.peak = 65535 → value t 65535)
        ∧ (r.n = 0 → r.peak ≠ 65535 → t.leftLeadsTo f x y value waits))
      fun t => waits t .own)

/-- A pixel of a view from a stage on: `value t v` or `waits t stage`. The coverage view shows its n (R131). -/
def State.pixelLeadsTo (view : View) (stage : PixelStage) (f : Frozen) (x y : Nat) (value : State → BitVec 16 → Prop)
    (waits : State → PixelStage → Prop) (u : State) : Prop :=
  match view, stage with
  | .coverage, _ =>
    u.recordLeadsTo (y / 32 * (f.width.toNat / 32) + x / 32) (y % 32 * 32 + x % 32) (fun t r => value t r.n) fun t => waits t .own
  | .image, .own => u.ownLeadsTo f x y value waits
  | .image, .left => u.leftLeadsTo f x y value waits
  | .image, .right => u.rightLeadsTo f x y value waits

/-- What the next `n` lanes of a result read come to in `u`, in ascending order, one finished whole before the next: padding
shows 0, a pixel its value; `done` of the values where all have theirs, `waits` of the read where one waits (R128, R129). -/
def State.lanesLeadTo (done : State → List (BitVec 16) → Prop) (waits : State → ResultRead → Prop) :
    Nat → ResultRead → State → Prop
  | 0, rd, u => done u rd.values
  | n + 1, rd, u =>
    let f := rd.frame
    let p := f.pitch.toNat
    let o := rd.offset / 2 * 2 + 2 * rd.lane
    let next (t : State) (v : BitVec 16) : Prop :=
      State.lanesLeadTo done waits n { rd with lane := rd.lane + 1, stage := .own, values := rd.values ++ [v] } t
    if o / p < f.height.toNat ∧ o % p < 2 * f.width.toNat then
      u.pixelLeadsTo rd.view rd.stage f (o % p / 2) (o / p) next fun t stage => waits t { rd with stage := stage }
    else next u 0

/-- What a result read comes to in `u` from its next lane on: `done t beats` where its lanes all have values, each byte of the
beats being the low or high byte of the value of its lane; `waits t rd'` where it has come to `rd'` and waits. (Its first byte
is a high one only under an IDLE plan shadow's odd result base.) (R128, R129) -/
def State.readLeadsTo (u : State) (rd : ResultRead) (done : State → List (BitVec 64) → Prop)
    (waits : State → ResultRead → Prop) : Prop :=
  let odd := rd.offset % 2
  let lanes := 4 * rd.beats + odd
  rd.values.length = rd.lane → rd.lane ≤ lanes →
  u.lanesLeadTo
    (fun t values => ∃ beats, beats.length = rd.beats
      ∧ (∀ k b, k < rd.beats → b < 8 →
        byteOf (beats[k]?.getD 0) b = byteOf (values[(odd + 8 * k + b) / 2]?.getD 0) ((odd + 8 * k + b) % 2))
      ∧ done t beats)
    waits (lanes - rd.lane) rd

/-- The state once a result read has been dealt with: its sectors are released and it is answered OK (R110, R129). -/
def State.readEnds (m : State) (beats : List (BitVec 64)) : State := { m.released with inHand := none }.answering .ok beats

/-- The request in hand in `u` goes on, as far as it can, to a state of which `out` holds. Spoiled blocks of a capture burst are
discarded, each counted, and MEMORY_FAULT is raised. While a fill or an eviction is in progress it waits on; else the fold in
hand goes on and the blocks behind it follow, or the result read goes on. A carried request and the header burst of an
automatic checkpoint stay as they are. (R50, R51, R74, R112, R117; logs 11, 17.) -/
def State.handLeadsTo (u : State) (out : State → Prop) : Prop :=
  let busy := u.cache.fill ≠ none ∨ ∃ w, u.cache.writeback = some w ∧ w.forFlush = false
  match u.inHand with
  | none => out u
  | some (.through _ _) => out u
  | some .header => out u
  | some (.result rd) =>
    (busy → out u)
    ∧ (¬busy → u.readLeadsTo rd (fun m beats => out (m.readEnds beats))
        fun v r => out { v with inHand := some (.result r) })
  | some (.capture cap) =>
    let n := cap.blocks.countP Block.spoiled
    let blocks := cap.blocks.filter fun b => !b.spoiled
    let v := if n = 0 then u else raise .memoryFault (count .darkReadErrors n u)
    (busy → out { v with inHand := some (.capture { cap with blocks := blocks }) })
    ∧ (¬busy → cap.fold = none → v.blocksLeadTo out blocks)
    ∧ (¬busy → ∀ g, cap.fold = some g →
      v.foldLeadsTo g (State.blocksLeadTo out blocks) fun m g' => out { m with inHand := some (.capture ⟨some g', blocks⟩) })

/-- Row `i` in `s` has the effect `v`; then the request in hand goes on, and those that wait are taken if they can be
(`RequestsWaitInOrder` says how). -/
def State.settlesFrom (s : State) (i : Instr) (v : State) : Prop :=
  exec i s = .next (settle v) ∧ (s.waiting = [] → v.handLeadsTo fun t => exec i s = .next t)

/-! ## The grant (R176) -/

/-- `t` is `s` with the grant of a transaction of purpose `p` noted by the requester that presented it, the link aside: it
is placed, and the requester goes on to its next (R176). -/
def State.advances (s t : State) (p : Purpose) : Prop :=
  match p with
  | .passThrough => ∀ r, s.inHand = some (.through r false) → t = { s with arb := t.arb, inHand := some (.through r true) }
  | .darkFetch row block second => ∀ cap, s.inHand = some (.capture cap) → t = { s with
      arb := t.arb
      inHand := some (.capture { cap with blocks := cap.blocks.map fun b =>
        if b.row = row ∧ b.block = block then
          if second = true then { b with fetchB := b.fetchB.map fun f => { f with state := .placed } }
          else { b with fetchA := b.fetchA.map fun f => { f with state := .placed } }
        else b }) }
  | .fill _ => ∀ f, s.cache.fill = some f →
      t = { s with arb := t.arb, cache := { s.cache with fill := some { f with placed := f.placed + 1 } } }
  | .droppedFill => False
  | .evict _ => ∀ w, s.cache.writeback = some w →
      t = { s with arb := t.arb, cache := { s.cache with writeback := some { w with placed := w.placed + 1 } } }
  | .flush _ => ∀ w, s.cache.writeback = some w →
      t = { s with arb := t.arb, cache := { s.cache with writeback := some { w with placed := w.placed + 1 } } }
  | .contextWrite => ∀ base parts lost step placed, s.bulk = some (.contextWrite base parts lost step placed) →
      t = { s with arb := t.arb, bulk := some (.contextWrite base parts lost step true) }
  | .contextRead _ => ∀ base placed ended failed parts, s.bulk = some (.contextRead base placed ended failed parts) →
      t = { s with arb := t.arb, bulk := some (.contextRead base (placed + 1) ended failed parts) }
  | .recordRead _ => ∀ job placed ended failed parts, s.bulk = some (.recordRead job placed ended failed parts) →
      t = { s with arb := t.arb, bulk := some (.recordRead job (placed + 1) ended failed parts) }
  | .planeWrite _ => ∀ job plane placed ended failed, s.bulk = some (.planeWrite job plane placed ended failed) →
      t = { s with arb := t.arb, bulk := some (.planeWrite job plane (placed + 1) ended failed) }
  | .libraryWrite => ∀ base image placed, s.bulk = some (.libraryWrite base image placed) →
      t = { s with arb := t.arb, bulk := some (.libraryWrite base image true) }
  | .libraryRead => ∀ base placed, s.bulk = some (.libraryRead base placed) →
      t = { s with arb := t.arb, bulk := some (.libraryRead base true) }

end Sys2Proof.Machine
end

