-- ==== Sys2Proof/Certificates/Slice0/Obligations.lean ====
section
/-! DEFINITION. Certificates/Slice0/Obligations.lean: the statements for the provers. Rule numbers are those of spec/. -/

open Sys2Proof Sys2Proof.Machine

/-! ## The step, and the RESET line -/

/-- The model's own queue (log 3): a step takes the command in front and has its effect with the queue's rest. -/
def Obligations.StepTakesTheFrontCommand : Prop :=
  ∀ (c : Instr) (rest : List Instr) (s : State),
    s.pending = c :: rest → step s = exec c { s with pending := rest }

/-- R179, R182 and the tables of chapters 2 to 10: what every block holds once RST_N has gone low, and what stands. (The
model's choices: that waiting requests stand is log 4, the record of answers log 5, the queue log 3, and that an assertion
with RST_N already low does the same again log 23.) -/
def Obligations.ResetLineAssertResetsEveryBlock : Prop :=
  ∀ s : State, ∃ t, exec .resetLineAssert s = .next t
    ∧ t.resetLow = true ∧ t.inHand = none ∧ t.bulk = none ∧ t.arb.inFlight = []
    ∧ (∀ r, t.arb.passCounts.of r = 0)
    ∧ t.hdr.lock = .hunt ∧ t.hdr.last = 0 ∧ t.hdr.badRun = 0 ∧ t.hdr.folded = 0 ∧ t.hdr.received = 0
    ∧ t.hdr.opened = none ∧ t.hdr.head = 0 ∧ t.hdr.count = 0
    ∧ (∀ i, t.hdr.byte i = 0) ∧ (∀ i, Table.get none t.hdr.history i = none)
    ∧ (∀ i, Table.get false t.hdr.landing i = false)
    ∧ (∀ i, t.dark.slot i = none) ∧ t.dark.tempSum = 0 ∧ t.dark.eref = 0 ∧ t.dark.erefSet = false
    ∧ t.rot.t0 = 0 ∧ t.rot.t0Set = false ∧ t.rot.phase = 0 ∧ t.rot.c = 2 ^ 30 ∧ t.rot.s = 0
    ∧ (∀ i, t.cache.sector i = none) ∧ t.cache.recency = [] ∧ (∀ i, t.cache.isTouched i = false)
    ∧ t.cache.flush = none ∧ t.cache.fill = none ∧ t.cache.writeback = none ∧ t.cache.firstFillError = none
    ∧ t.cmd.run = .idle ∧ t.cmd.mode = .light ∧ t.cmd.inFlight = none ∧ t.cmd.aborting = false
    ∧ t.cmd.record.code = 0 ∧ t.cmd.record.arg = 0 ∧ t.cmd.record.outcomeCode = 0 ∧ t.cmd.record.aborted = 0
    ∧ t.cmd.taken = 0 ∧ t.cmd.lastRefused = 0 ∧ t.cmd.progress = 0
    ∧ t.cmd.plan = ⟨⟨0, 0, 0, false, false, 0, 0, 0, 0, 0, 0, 0xE4, 0xE4, 3, 12, 16, 64, 65535, 0, 0, 0, 0⟩,
        256, 256, 0, 4000, 0, 0⟩
    ∧ t.cmd.snap = t.cmd.plan.frozen
    ∧ (∀ c, t.counter c = 0) ∧ t.rep.hotMarked = 0 ∧ t.rep.uncovered = 0 ∧ t.rep.clampMask = 0 ∧ t.rep.raised = 0
    ∧ t.attn = false ∧ t.alert = false ∧ (∀ i, t.classOf i = .ground)
    ∧ t.planBase = s.planBase ∧ t.waiting = s.waiting ∧ t.answers = s.answers ∧ t.pending = s.pending

/-- R168, R193: RST_N going high latches the straps and, with no request waiting, changes nothing else; with RST_N already
high the command changes nothing (log 23, the model's reading). -/
def Obligations.ReleaseLatchesTheStraps : Prop :=
  ∀ (p1 p0 : Bool) (s : State),
    (s.resetLow = true → s.waiting = [] →
      exec (.resetLineRelease p1 p0) s = .next { s with
        resetLow := false
        planBase := if p1 then (if p0 then 0x7FF00000 else 0x3FF00000) else (if p0 then 0x1FF00000 else 0x0FF00000) })
    ∧ (s.resetLow = false → exec (.resetLineRelease p1 p0) s = .next s)

/-! ## The P-link and its windows -/

/-- R167: a refused request is answered ERROR when taken, a read with its beats 0 (none for a bad beat count, R166), and
nothing else changes; every P-link row. Refused are a bad address or beat count, a byte at 2^31 or above, a 4 KiB boundary
crossed, and bytes in two windows; and the window of a byte is the first that holds it of the plan page, report page,
capture window, image view, coverage view, checkpoint, accumulator and dark region, placed by R168 and R169 (R170). -/
def Obligations.RefusedRequestsHaveNoEffect : Prop :=
  (∀ (i : Instr) (s : State) (r : Request), requestOf s i = some r → s.isFree → s.holdsBack r = false →
    s.refuses r = true →
    exec i s = .next (s.answering .error
      (match r with
       | .read _ n => if 1 ≤ n ∧ n ≤ 16 then List.replicate n 0 else []
       | .write _ _ => [])))
  ∧ (∀ (s : State) (r : Request),
    let a := r.addr.toNat
    let n := r.beatCount
    s.refuses r = true ↔
      (a % 8 ≠ 0 ∨ n = 0 ∨ 16 < n ∨ 2147483648 < a + 8 * n ∨ a / 4096 ≠ (a + 8 * n - 1) / 4096
        ∨ ∃ b, a ≤ b ∧ b < a + 8 * n ∧ s.windowOf b ≠ s.windowOf a))
  ∧ ∀ (s : State) (a : Nat),
    let f := if s.cmd.run = .idle then s.cmd.plan.frozen else s.cmd.snap
    let w := f.width.toNat
    let h := f.height.toNat
    let p := f.pitch.toNat
    let v := (h * p + 1048575) / 1048576 * 1048576
    let placed := s.cmd.run ≠ .idle ∨ (w % 32 = 0 ∧ 256 ≤ w ∧ w ≤ 6144 ∧ h % 32 = 0 ∧ 256 ≤ h ∧ h ≤ 4096
      ∧ p % 64 = 0 ∧ 2 * w ≤ p ∧ p ≤ 16384)
    let within (base size : Nat) := base ≤ a ∧ a < base + size
    (within s.planBase.toNat 4096 → s.windowOf a = .plan)
    ∧ (¬within s.planBase.toNat 4096 → within (s.planBase.toNat + 4096) 4096 → s.windowOf a = .report)
    ∧ (¬within s.planBase.toNat 8192 →
      (placed ∧ (s.cmd.run = .idle → f.captureBase.toNat % 1048576 = 0) ∧ within f.captureBase.toNat (4096 + h * p) →
        s.windowOf a = .capture)
      ∧ (¬(placed ∧ (s.cmd.run = .idle → f.captureBase.toNat % 1048576 = 0) ∧ within f.captureBase.toNat (4096 + h * p)) →
        (placed ∧ within f.resultBase.toNat v → s.windowOf a = .image)
        ∧ (¬(placed ∧ within f.resultBase.toNat v) →
          (placed ∧ within (f.resultBase.toNat + v) v → s.windowOf a = .coverage)
          ∧ (¬(placed ∧ within (f.resultBase.toNat + v) v) →
            (within f.ckptBase.toNat 8192 → s.windowOf a = .checkpoint)
            ∧ (¬within f.ckptBase.toNat 8192 →
              (placed ∧ within f.accBase.toNat (w / 32 * (h / 32) * 12288) → s.windowOf a = .accumulator)
              ∧ (¬(placed ∧ within f.accBase.toNat (w / 32 * (h / 32) * 12288)) →
                (within f.darkBase.toNat 201326592 → s.windowOf a = .dark)
                ∧ (¬within f.darkBase.toNat 201326592 → s.windowOf a = .pass)))))))

/-- R158, R165, R179: a request that cannot be taken, or stands behind one that cannot, waits, and nothing else changes. It
cannot be taken while a request is in hand, while RST_N is low, or while a CHECKPOINT is in flight and its address lies in the
placed capture window. While the first that waits cannot be taken, every row that issues no request has the effect it has with
none waiting, and then those that wait are taken in order, each as though it arrived at that moment, until one cannot be: so at
the end of the request in hand, at the release of the RESET line and at the end of a CHECKPOINT. (That they stand through an
assertion of the RESET line is log 4, DEDUCED; that an arrival is decided by its address and not by its row log 19, the model's
choice.) -/
def Obligations.RequestsWaitInOrder : Prop :=
  (∀ (i : Instr) (s : State) (r w : Request), requestOf s i = some r → (s.waiting ++ [r]).head? = some w → s.blocks w →
    exec i s = .next { s with waiting := s.waiting ++ [r] })
  ∧ (∀ (s : State) (r : Request),
    let f := if s.cmd.run = .idle then s.cmd.plan.frozen else s.cmd.snap
    let w := f.width.toNat
    let h := f.height.toNat
    let p := f.pitch.toNat
    s.blocks r ↔ s.inHand ≠ none ∨ s.resetLow = true
      ∨ ((∃ arg, s.cmd.inFlight = some (.checkpoint, arg))
        ∧ (s.cmd.run ≠ .idle ∨ (w % 32 = 0 ∧ 256 ≤ w ∧ w ≤ 6144 ∧ h % 32 = 0 ∧ 256 ≤ h ∧ h ≤ 4096
            ∧ p % 64 = 0 ∧ 2 * w ≤ p ∧ p ≤ 16384 ∧ f.captureBase.toNat % 1048576 = 0))
        ∧ f.captureBase.toNat ≤ r.addr.toNat ∧ r.addr.toNat < f.captureBase.toNat + (4096 + h * p)))
  ∧ ∀ (i : Instr) (s : State) (w : Request) (rest : List Request),
    requestOf s i = none → s.waiting = w :: rest → s.blocks w →
    ∃ t v, exec i { s with waiting := [] } = .next t ∧ t.waiting = [] ∧ exec i s = .next v ∧ State.admits s.waiting t v

/-- R173 to R175: a write is refused as protected exactly when it covers a byte of a region of the table of R175. (That the
checkpoint region is protected from the moment its operation begins, before its first grant, is log 32, DEDUCED; that the
plane of a COMMIT_DARK is free once its slot is no longer BUILDING is log 40, the model's choice: R57 says "while COMMIT_DARK
is in flight".) -/
def Obligations.ProtectedRegionsOfTheTable : Prop :=
  ∀ (s : State) (r : Request),
    let f := if s.cmd.run = .idle then s.cmd.plan.frozen else s.cmd.snap
    s.isProtected r = true ↔
      ∃ a, r.addr.toNat ≤ a ∧ a < r.addr.toNat + 8 * r.beatCount ∧
        (((s.cmd.run = .running ∨ s.cmd.run = .ending ∨ s.inFlightIs .commitDark = true ∨ s.inFlightIs .resume = true)
            ∧ (s.cmd.run ≠ .idle ∨ f.legal = true)
            ∧ f.accBase.toNat ≤ a ∧ a < f.accBase.toNat + f.width.toNat / 32 * (f.height.toNat / 32) * 12288)
        ∨ (∃ base : BitVec 32, base.toNat ≤ a ∧ a < base.toNat + 8192
            ∧ ((∃ parts lost step placed, s.bulk = some (.contextWrite base parts lost step placed))
              ∨ (∃ placed ended failed parts, s.bulk = some (.contextRead base placed ended failed parts))
              ∨ (∃ job placed ended failed parts, s.bulk = some (.recordRead job placed ended failed parts)
                  ∧ base = s.cmd.snap.ckptBase)
              ∨ (∃ job plane placed ended failed, s.bulk = some (.planeWrite job plane placed ended failed)
                  ∧ base = s.cmd.snap.ckptBase)
              ∨ (∃ image placed, s.bulk = some (.libraryWrite base image placed))
              ∨ (∃ placed, s.bulk = some (.libraryRead base placed))))
        ∨ (∃ k x, k < 4 ∧ s.dark.slot k = some x
            ∧ x.base.toNat ≤ a ∧ a < x.base.toNat + x.width.toNat / 32 * (x.height.toNat / 32) * 2048
            ∧ (x.building = true
              ∨ (s.cmd.mode = .light ∧ s.cmd.snap.darkUse = true ∧ (s.cmd.run = .running ∨ s.cmd.run = .ending)
                ∧ x.building = false ∧ x.width = s.cmd.snap.width ∧ x.height = s.cmd.snap.height))))

/-- R174, R175: a read of pass-through addresses, the plan page, or the accumulator, dark or checkpoint region is presented
as one transaction, and so is a write to any of them but the plan page, unless a protected region covers a byte of it: then
it is answered ERROR. Nothing else changes. A plan page write of any row that covers a byte of a protected region is answered
ERROR, neither snooped nor sent. -/
def Obligations.PassThroughIsCarriedOrProtected : Prop :=
  (∀ (i : Instr) (s : State) (addr : BitVec 32) (beats : List Beat), requestOf s i = some (.write addr beats) →
    s.takesIn (.write addr beats) .plan → s.isProtected (.write addr beats) = true →
    exec i s = .next (s.answering .error []))
  ∧ ∀ (s : State) (addr : BitVec 32) (n : Nat) (beats : List Beat) (w : Window),
    (s.takesIn (.read addr n) w → w ∈ [.pass, .plan, .accumulator, .dark, .checkpoint] →
      exec (.passThroughRead addr n) s = .next (s.carrying (.read addr n)))
    ∧ (s.takesIn (.write addr beats) w → w ∈ [.pass, .accumulator, .dark, .checkpoint] →
      exec (.passThroughWrite addr beats) s = .next
        (if s.isProtected (.write addr beats) = true then s.answering .error [] else s.carrying (.write addr beats)))

/-- R166, R174: when the transaction of a carried request ends, the request is answered with the M-link response: a write
without beats, a read with DRAM's beats, all 0 after an ERROR. -/
def Obligations.PassThroughEndAnswersTheRequest : Prop :=
  ∀ (s : State) (index : Nat) (resp : Response) (data : Chunk) (r : Request),
    s.flying index .passThrough → s.inHand = some (.through r true) → s.waiting = [] →
    ∃ beats, exec (.passThroughEnd index resp data) s =
        .next { (s.landed index).answering resp beats with inHand := none }
      ∧ (∀ a bs, r = .write a bs → beats = [])
      ∧ (∀ a n, r = .read a n → beats.length = n
          ∧ ∀ k, k < n → beats[k]? = some (if resp = .ok then data.extractLsb' (64 * k) 64 else 0))

/-- R172: reads of the capture window and writes to a result view or the report page are answered ERROR with no effect. -/
def Obligations.RefusedByTheirWindow : Prop :=
  ∀ s : State,
    (∀ addr n, s.takesIn (.read addr n) .capture →
      exec (.captureRead addr n) s = .next (s.answering .error (List.replicate n 0)))
    ∧ (∀ addr beats w, w = .image ∨ w = .coverage → s.takesIn (.write addr beats) w →
      exec (.resultWrite addr beats) s = .next (s.answering .error []))
    ∧ (∀ off beats, s.takesIn (.write (s.reportAddr (BitVec.toNat off)) beats) .report →
      exec (.reportWrite off beats) s = .next (s.answering .error []))

/-! ## The plan page -/

/-- R180: a plan write that touches no field with behaviour of its own changes the plan shadow's strobed bytes and is
carried to DRAM; nothing else changes. -/
def Obligations.PlanWriteIsSnoopedAndCarried : Prop :=
  ∀ (s : State) (off : BitVec 12) (beats : List Beat), (Instr.planWrite off beats).wf = true →
    s.takesPlan (.write (s.planAddr off.toNat) beats) →
    exec (.planWrite off beats) s = .next
      ({ s with cmd := { s.cmd with plan := (strobedBytes off.toNat beats).foldl Plan.setByte s.cmd.plan } }.carrying
        (.write (s.planAddr off.toNat) beats))

/-- R180, R192 and section 11.2: after one strobed byte of the plan fields is taken, the field bytes read back as written
(the two flag bytes by bit 0 alone) and every other byte as before: the frozen fields from offset 0x008, the live ones from
0x040; bytes no field uses are not taken. -/
def Obligations.SnoopedByteReadsBack : Prop :=
  (∀ (f : Frozen) (off k : Nat) (b : Byte), 0x008 ≤ off → off < 0x040 → k < 56 →
    fieldAt (imageOf (f.setByte off b).fields) k 1 =
      if k + 8 = off then (if off = 0x00E ∨ off = 0x00F then b.toNat % 2 else b.toNat)
      else fieldAt (imageOf f.fields) k 1)
  ∧ ∀ (p : Plan) (off : Nat) (b : Byte),
    let live (q : Plan) : List Field :=
      [⟨0, 2, q.gain.toNat⟩, ⟨2, 2, q.trailGain.toNat⟩, ⟨4, 2, q.fill.toNat⟩, ⟨6, 2, q.hotThreshold.toNat⟩,
        ⟨8, 1, q.classPage.toNat⟩, ⟨12, 4, q.levels.toNat⟩]
    (off < 0x040 → p.setByte (off, b) = { p with frozen := p.frozen.setByte off b })
    ∧ (0x040 ≤ off → (p.setByte (off, b)).frozen = p.frozen)
    ∧ (off < 0x008 ∨ (0x048 < off ∧ off < 0x04C) ∨ 0x050 ≤ off → p.setByte (off, b) = p)
    ∧ ∀ k, k < 16 → 0x040 ≤ off → ¬(0x048 < off ∧ off < 0x04C) →
      fieldAt (imageOf (live (p.setByte (off, b)))) k 1 =
        if k + 0x040 = off then b.toNat else fieldAt (imageOf (live p)) k 1

/-- R190: the event clear word clears the flag of each event whose bit is 1 in a strobed byte; the write is carried to
DRAM and nothing else changes. Event e has bit e, of 0 to 8 (LinesFollowFlagsAndLevels names the nine). -/
def Obligations.EventClearWordClearsStrobedBits : Prop :=
  ∀ (s : State) (word : BitVec 32) (strobes : BitVec 4),
    s.takesPlan (.write (s.planAddr 0) [clearBeat word strobes]) →
    ∃ raised : BitVec 9,
      exec (.eventClearWord word strobes) s = .next
        ({ s with rep := { s.rep with raised := raised } }.carrying (.write (s.planAddr 0) [clearBeat word strobes]))
      ∧ ∀ i, i < 9 → raised.getLsbD i = (s.rep.raised.getLsbD i && !(word.getLsbD i && strobes.getLsbD (i / 8)))

/-- R189: a write of the event levels field takes its strobed bytes and leaves the others; the pending flags stand, and
nothing else changes but that the write is carried to DRAM. -/
def Obligations.EventLevelsTakeStrobedBytes : Prop :=
  ∀ (s : State) (levels : BitVec 32) (strobes : BitVec 4),
    s.takesPlan (.write (s.planAddr 0x048) [levelsBeat levels strobes]) →
    ∃ new : BitVec 32,
      exec (.eventLevels levels strobes) s = .next
        ({ s with cmd := { s.cmd with plan := { s.cmd.plan with levels := new } } }.carrying
          (.write (s.planAddr 0x048) [levelsBeat levels strobes]))
      ∧ ∀ k, k < 4 → byteOf new k = if strobes.getLsbD k = true then byteOf levels k else byteOf s.cmd.plan.levels k

/-- Section 10.4, R189, R191, R193: the nine events have the bits 0 to 8 of the pending flags, and event e its level in bits
2e and 2e + 1 of the levels field; ATTN is high exactly when an event of level 1 is pending, ALERT when one of level 2 or 3
is; both are low while RST_N is low. -/
def Obligations.LinesFollowFlagsAndLevels : Prop :=
  (∀ (s : State) (i : Nat) (e : Event),
    [Event.lockAcquired, .lockLost, .commandDone, .sequenceGap, .tempOutside, .checkpointDone, .memoryFault, .runFull,
      .shortSubframe][i]? = some e →
    e.bit = i ∧ s.isRaised e = s.rep.raised.getLsbD i
    ∧ (s.cmd.plan.level e).toNat = s.cmd.plan.levels.toNat / 2 ^ (2 * i) % 4)
  ∧ ∀ s : State,
    let level (i : Nat) := s.cmd.plan.levels.toNat / 2 ^ (2 * i) % 4
    (s.resetLow = false →
      (s.attn = true ↔ ∃ i, i < 9 ∧ s.rep.raised.getLsbD i = true ∧ level i = 1)
      ∧ (s.alert = true ↔ ∃ i, i < 9 ∧ s.rep.raised.getLsbD i = true ∧ 2 ≤ level i))
    ∧ (s.resetLow = true → s.attn = false ∧ s.alert = false)

/-- R5 to R7: a class write taken while the run is not RUNNING sets the four entries of each strobed window byte on the
current class page, none under a page of 3 or more; taken while RUNNING it is counted and changes no entry. It is carried to
DRAM and nothing else changes. -/
def Obligations.ClassWriteSetsEntries : Prop :=
  ∀ (s : State) (off : BitVec 11) (beats : List Beat),
    s.takesPlan (.write (s.planAddr (0x800 + off.toNat)) beats) →
    (s.cmd.run = .running → (Instr.classWrite off beats).wf = true →
      exec (.classWrite off beats) s = .next
        ((count .classWritesIgnored 1 s).carrying (.write (s.planAddr (0x800 + off.toNat)) beats)))
    ∧ (s.cmd.run ≠ .running → ∃ classes,
      exec (.classWrite off beats) s = .next
        ({ s with classes := classes }.carrying (.write (s.planAddr (0x800 + off.toNat)) beats))
      ∧ ∀ tile,
        let o := tile % 8192 / 4
        let beat := beats[(o - off.toNat) / 8]?.getD ⟨0, 0⟩
        Table.get .ground classes tile =
          if s.cmd.plan.classPage.toNat < 3 ∧ tile / 8192 = s.cmd.plan.classPage.toNat ∧ off.toNat ≤ o
              ∧ beat.strobes.getLsbD ((o - off.toNat) % 8) = true then
            classOfCode (beat.data.extractLsb' (8 * ((o - off.toNat) % 8) + 2 * (tile % 4)) 2)
          else s.classOf tile)

/-- R186, R188: a counter rises by the amount and holds at 4,294,967,295, no other counter moves; raising an event sets
its flag and leaves the others. -/
def Obligations.CountersHoldAndFlagsSet : Prop :=
  ∀ s : State,
    (∀ (c d : Counter) (k : Nat), ((count c k s).counter d).toNat =
      if d = c then min 4294967295 ((s.counter c).toNat + k) else (s.counter d).toNat)
    ∧ (∀ e f : Event, (raise e s).isRaised f = (decide (f = e) || s.isRaised f))

/-! ## Commands -/

/-- R147, R150, R152, R56: a command refused when taken in READY writes its outcome and changes nothing else; the write
that carries it goes to DRAM. The first check of R147 it fails gives the outcome. (A RESUME refused so, with WRONG_STATE,
leaves the received mask too: log 35, the model's choice, since R20 says that RESUME clears it "when it is taken".) -/
def Obligations.RefusedCommandsOnlyWriteTheirOutcome : Prop :=
  ∀ (i : Instr) (s : State) (code : BitVec 16) (b : CommandBurst) (o : CommandOutcome),
    commandRow i = some (code, b) → s.takesCommand code b → refusalOf code b.arg (s.atCommand code b) = some o →
    exec i s = .next (((s.atCommand code b).withOutcome o).carrying (commandRequest code b s))

/-- R145: a command word other than ABORT is turned away while BUSY: the refused-while-busy counter rises by 1, the last
refused code takes its code, and the write goes to DRAM; the record and the command in flight stand. -/
def Obligations.CommandsTurnedAwayWhileBusy : Prop :=
  ∀ (i : Instr) (s : State) (code : BitVec 16) (b : CommandBurst) (c : LongCommand × BitVec 16),
    commandRow i = some (code, b) → code ≠ 0x00FF → s.takesPlan (commandRequest code b s) → s.cmd.inFlight = some c →
    let p := s.afterFields code b
    exec i s = .next ((count .refusedWhileBusy 1 { p with cmd := { p.cmd with lastRefused := code } }).carrying
      (commandRequest code b s))

/-- R150, R151: a plan is usable exactly when its geometry is legal, its lane codes are permutations, its bases are
multiples of 1 MiB, no region reaches past 2^31 and no byte lies in two regions; the six regions have the starts and
extents of R151. The dark test passes exactly in DARK mode, with dark use clear, or with a VALID slot of width W and height H,
and the matching slots are those (R44). -/
def Obligations.UsablePlans : Prop :=
  (∀ (f : Frozen) (planBase : BitVec 32),
    f.usable planBase = true ↔
      ((f.width.toNat % 32 = 0 ∧ 256 ≤ f.width.toNat ∧ f.width.toNat ≤ 6144)
        ∧ (f.height.toNat % 32 = 0 ∧ 256 ≤ f.height.toNat ∧ f.height.toNat ≤ 4096)
        ∧ (f.pitch.toNat % 64 = 0 ∧ 2 * f.width.toNat ≤ f.pitch.toNat ∧ f.pitch.toNat ≤ 16384)
        ∧ (∀ code, code = f.evenCode ∨ code = f.oddCode → ∀ o, o < 4 → ∃ l, l < 4 ∧ code.toNat / 4 ^ l % 4 = o)
        ∧ (∀ b, b ∈ [f.captureBase, f.resultBase, f.accBase, f.darkBase, f.ckptBase] → b.toNat % 1048576 = 0)
        ∧ (∀ r, r ∈ f.regions planBase → r.base + r.size ≤ 2147483648)
        ∧ (f.regions planBase).Pairwise fun r t => ∀ a, ¬(r.contains a = true ∧ t.contains a = true)))
  ∧ (∀ (f : Frozen) (planBase : BitVec 32),
    let view := (f.height.toNat * f.pitch.toNat + 1048575) / 1048576 * 1048576
    f.regions planBase =
      [⟨planBase.toNat, 8192⟩, ⟨f.captureBase.toNat, 4096 + f.height.toNat * f.pitch.toNat⟩,
        ⟨f.resultBase.toNat, 2 * view⟩, ⟨f.accBase.toNat, f.width.toNat / 32 * (f.height.toNat / 32) * 12288⟩,
        ⟨f.darkBase.toNat, 201326592⟩, ⟨f.ckptBase.toNat, 8192⟩]
    ∧ ∀ r a, Region.contains r a = true ↔ r.base ≤ a ∧ a < r.base + r.size)
  ∧ ∀ (mode : RunMode) (f : Frozen) (d : DarkUnit),
    let fits (k : Nat) (x : Slot) := k < 4 ∧ d.slot k = some x ∧ x.building = false ∧ x.width = f.width ∧ x.height = f.height
    (∀ p, p ∈ d.matching f ↔ fits p.1 p.2)
    ∧ (darkTest mode f d = true ↔ mode = .dark ∨ f.darkUse = false ∨ ∃ k x, fits k x)

/-- R72, R185: the clamps of the four fold parameters and the marks of the clamp mask. -/
def Obligations.ClampsAndTheirMarks : Prop :=
  ∀ f : Frozen,
    let g := clampParams f
    let m := clampMaskOf f
    (1 ≤ g.nwarm.toNat ∧ g.nwarm.toNat ≤ 16 ∧ 4 ≤ g.kq.toNat ∧ g.kq.toNat ≤ 63
      ∧ 1 ≤ g.devfloor.toNat ∧ g.devfloor.toNat ≤ 4095 ∧ 1 ≤ g.satlevel.toNat)
    ∧ g.nwarm.toNat = max 1 (min 16 f.nwarm.toNat) ∧ g.kq.toNat = max 4 (min 63 f.kq.toNat)
    ∧ g.devfloor.toNat = max 1 (min 4095 f.devfloor.toNat) ∧ g.satlevel.toNat = max 1 f.satlevel.toNat
    ∧ g = { f with nwarm := g.nwarm, kq := g.kq, devfloor := g.devfloor, satlevel := g.satlevel }
    ∧ m.getLsbD 0 = decide (g.nwarm ≠ f.nwarm) ∧ m.getLsbD 1 = decide (g.kq ≠ f.kq)
    ∧ m.getLsbD 2 = decide (g.devfloor ≠ f.devfloor) ∧ m.getLsbD 3 = decide (g.satlevel ≠ f.satlevel)

/-- R152, R153, R185, R187: an accepted START writes the snapshot and resets the run's working state; nothing else of the
part changes, and the write goes to DRAM. -/
def Obligations.StartBeginsARun : Prop :=
  ∀ (s : State) (b : CommandBurst), s.takesCommand startCode b →
    let p := s.atCommand startCode b
    let f := p.cmd.plan.frozen
    let mode : RunMode := if b.arg = 0 then .light else .dark
    b.arg.toNat ≤ 1 → (s.cmd.run = .idle ∨ s.cmd.run = .ended) → f.usable s.planBase = true →
    darkTest mode f s.dark = true →
    exec (.start b) s = .next
      (({ p with
          cmd := { p.cmd with snap := clampParams f, mode := mode, run := .running }
          hdr := { s.hdr with received := 0, lock := .hunt, last := 0, badRun := 0, folded := 0, opened := none,
                              history := [], head := 0, count := 0 }
          rot := { s.rot with t0 := 0, t0Set := false }
          dark := { s.dark with tempSum := 0, eref := 0, erefSet := false }
          cache := TileCache.reset
          rep := { p.rep with counters := [], hotMarked := 0, uncovered := 0,
                              clampMask := clampMaskOf f } }.withOutcome .done).carrying
        (commandRequest startCode b s))

/-- R156, R158: END taken in RUNNING closes the open subframe with its short-subframe test, makes the run ENDING and the
unit BUSY, and begins the flush; CHECKPOINT taken in RUNNING makes the unit BUSY and begins the flush, the run, the lock and
the open subframe as they stand. Nothing else changes, and the write goes to DRAM. -/
def Obligations.EndAndCheckpointBeginTheirFlush : Prop :=
  ∀ (s : State) (b : CommandBurst), s.cmd.run = .running →
    (s.takesCommand endCode b →
      let p := (s.atCommand endCode b).accepted .endRun b.arg
      let q := match s.hdr.opened with
        | none => p
        | some sub =>
          let c := { p with hdr := s.hdr.closeSubframe }
          if sub.landed < s.cmd.snap.width.toNat / 32 * s.cmd.snap.height.toNat then
            raise .shortSubframe (count .shortSubframes 1 c)
          else c
      ∃ t, exec (.endRun b) s = .next (t.carrying (commandRequest endCode b s))
        ∧ { q with cmd := { q.cmd with run := .ending, saving := some .endRun } }.beginsFlush t)
    ∧ (s.takesCommand checkpointCode b →
      let p := (s.atCommand checkpointCode b).accepted .checkpoint b.arg
      ∃ t, exec (.checkpoint b) s = .next (t.carrying (commandRequest checkpointCode b s))
        ∧ { p with cmd := { p.cmd with saving := some .checkpoint } }.beginsFlush t)

/-- R149, R160: RESUME taken in IDLE clears the received mask and begins its reads at the plan shadow's checkpoint base;
from a base that is misaligned or too high it ends at once with MEMORY_FAULT. -/
def Obligations.ResumeBeginsItsReads : Prop :=
  ∀ (s : State) (b : CommandBurst), s.takesCommand resumeCode b → s.cmd.run = .idle →
    let p := (s.atCommand resumeCode b).accepted .resume b.arg
    let q := { p with hdr := { s.hdr with received := 0 } }
    let base := p.cmd.plan.frozen.ckptBase
    exec (.resume b) s = .next
      ((if base.toNat % 1048576 ≠ 0 ∨ 2147483648 < base.toNat + 8192 then
          (raise .memoryFault q).withOutcome .memoryFault
        else { q with bulk := some (.contextRead base 0 0 false []) }).carrying (commandRequest resumeCode b s))

/-- R56, R58, R59: an accepted COMMIT_DARK makes its slot BUILDING, sets the last-commit values and the progress to 0 and
comes to tile 0, which is read if touched and else written as 0 and counted uncovered. (That an untouched tile is counted
at its start, here already when the command is taken, is log 21, DEDUCED.) -/
def Obligations.CommitDarkBeginsItsWalk : Prop :=
  ∀ (s : State) (b : CommandBurst), s.takesCommand commitDarkCode b →
    b.arg.toNat ≤ 3 → s.cmd.run = .ended → s.cmd.mode = .dark → s.hdr.folded ≠ 0 →
    let p := (s.atCommand commitDarkCode b).accepted .commitDark b.arg
    let k := b.arg.toNat
    let slot : Slot := ⟨true, 0, 0, 0, s.cmd.snap.width, s.cmd.snap.height,
      s.cmd.snap.darkBase + BitVec.ofNat 32 (k * 50331648)⟩
    let job : Commit := ⟨k, 0, p.cmd.plan.hotThreshold⟩
    let q := { p with
      dark := s.dark.setSlot k (some slot)
      cmd := { p.cmd with progress := 0 } }
    exec (.commitDark b) s = .next
      ((if s.cache.isTouched 0 = true then
          { q with rep := { p.rep with hotMarked := 0, uncovered := 0 }
                   bulk := some (.recordRead job 0 0 false []) }
        else
          { q with rep := { p.rep with hotMarked := 0, uncovered := 1024 }
                   bulk := some (.planeWrite job (List.replicate 16 0) 0 0 false) }).carrying
        (commandRequest commitDarkCode b s))

/-- R64 to R67, R149: an accepted DROP_DARK empties its slot at once and begins the library record write, an accepted
ADOPT_LIBRARY begins its read with the slot table as it stands; from a bad plan shadow base in IDLE either ends at once with
MEMORY_FAULT. -/
def Obligations.LibraryCommandsBegin : Prop :=
  ∀ (s : State) (b : CommandBurst), (s.cmd.run = .idle ∨ s.cmd.run = .ended) →
    (s.takesCommand dropDarkCode b → b.arg.toNat ≤ 3 →
      let p := (s.atCommand dropDarkCode b).accepted .dropDark b.arg
      let q := { p with dark := s.dark.setSlot b.arg.toNat none }
      let base := if s.cmd.run = .ended then s.cmd.snap.ckptBase else p.cmd.plan.frozen.ckptBase
      exec (.dropDark b) s = .next
        ((if s.cmd.run = .idle ∧ (base.toNat % 1048576 ≠ 0 ∨ 2147483648 < base.toNat + 8192) then
            (raise .memoryFault q).withOutcome .memoryFault
          else { q with bulk := some (.libraryWrite base q.dark.libraryImage false) }).carrying
          (commandRequest dropDarkCode b s)))
    ∧ (s.takesCommand adoptLibraryCode b →
      let q := (s.atCommand adoptLibraryCode b).accepted .adoptLibrary b.arg
      let base := if s.cmd.run = .ended then s.cmd.snap.ckptBase else q.cmd.plan.frozen.ckptBase
      exec (.adoptLibrary b) s = .next
        ((if s.cmd.run = .idle ∧ (base.toNat % 1048576 ≠ 0 ∨ 2147483648 < base.toNat + 8192) then
            (raise .memoryFault q).withOutcome .memoryFault
          else { q with bulk := some (.libraryRead base false) }).carrying (commandRequest adoptLibraryCode b s)))

/-- R163: ABORT taken in READY with no fill in progress: its effects on every block, outcome DONE, aborted code 0. -/
def Obligations.AbortInReady : Prop :=
  ∀ (s : State) (b : CommandBurst), s.takesCommand abortCode b → (∀ f, f ∈ s.arb.inFlight → f.purpose.isFill = false) →
    ∃ slots,
      (let p := s.atCommand abortCode b
       exec (.abort b) s = .next
        (({ p with
            cmd := { p.cmd with run := .idle }
            hdr := { s.hdr.closeSubframe with lock := .hunt, badRun := 0, received := 0 }
            dark := { s.dark with slots := slots }
            cache := { TileCache.reset with firstFillError := s.cache.firstFillError } }.withOutcome .done).carrying
          (commandRequest abortCode b s)))
      ∧ (Table.wf none s.dark.slots = true → ∀ k, Table.get none slots k =
          match s.dark.slot k with
          | some x => if x.building = true then none else some x
          | none => none)

/-- R63, R163, R164: ABORT taken while BUSY is counted and recorded with the code of the command in flight, pending, and the
unit stays BUSY until the stopping point; a further one only counts. A command stops at once, with the effects of R163 and
outcome DONE and every slot that is not BUILDING as it stands, just where the Bulk Mover has a context write of which none is
placed, the reads of RESUME with every read placed ended, or a library read not placed; so never during a flush, COMMIT_DARK or
a library write. (That such a command stops at once is log 13, and that a fill in flight is dropped log 33, the model's choices;
that COMMIT_DARK goes on to the end of its tile log 12, DEDUCED.) -/
def Obligations.AbortWhileBusy : Prop :=
  ∀ (s : State) (b : CommandBurst) (c : LongCommand) (arg : BitVec 16),
    s.takesPlan (commandRequest abortCode b s) → s.cmd.inFlight = some (c, arg) →
    let r := commandRequest abortCode b s
    let p := s.afterFields abortCode b
    let q := { p with cmd := { p.cmd with taken := s.cmd.taken + 1, record := ⟨0x00FF, b.arg, none, c.code⟩ } }
    (s.stopsAtOnce = true ↔
      (∃ base parts lost step, s.bulk = some (.contextWrite base parts lost step false))
      ∨ (∃ base ended failed parts, s.bulk = some (.contextRead base ended ended failed parts))
      ∨ ∃ base, s.bulk = some (.libraryRead base false))
    ∧ (s.cmd.aborting = true →
      exec (.abort b) s = .next ({ p with cmd := { p.cmd with taken := s.cmd.taken + 1 } }.carrying r))
    ∧ (s.cmd.aborting = false → s.stopsAtOnce = false →
      exec (.abort b) s = .next ({ q with cmd := { q.cmd with aborting := true } }.carrying r))
    ∧ (s.cmd.aborting = false → s.stopsAtOnce = true →
      ∃ v, exec (.abort b) s = .next (v.carrying r) ∧ q.stopsInto v)

/-! ## The capture window -/

/-- R8, R19 to R21: the fields of the header line are read little-endian: the marker at byte 0, the sequence number at 4, the
temperature at 6, the exposure at 8, the timestamp at 12, the run tag at 16; its sum is that of its 32 words. A header page
burst places its strobed bytes at offsets 0 to 63. Where it leaves some mark clear, or
completes the header while the run is not RUNNING, it is answered OK and changes nothing else; a completion clears the
marks. -/
def Obligations.HeaderBytesArePlaced : Prop :=
  (∀ (h : HeaderUnit) (k : Nat),
    (k < 4 → byteOf h.marker k = h.byte k ∧ byteOf h.exposure k = h.byte (8 + k)
      ∧ byteOf h.timestamp k = h.byte (12 + k) ∧ byteOf h.runTag k = h.byte (16 + k))
    ∧ (k < 2 → byteOf h.seq k = h.byte (4 + k) ∧ byteOf h.temperature k = h.byte (6 + k))
    ∧ h.lineSum = ((List.range 32).map fun i => (h.byte (2 * i)).toNat + 256 * (h.byte (2 * i + 1)).toNat).sum)
  ∧ ∀ (s : State) (addr : BitVec 32) (beats : List Beat), s.takesIn (.write addr beats) .capture →
    let off := addr.toNat - s.active.captureBase.toNat
    let h := s.hdr.placeBytes (strobedBytes off beats)
    off < 4096 →
    (h.received ≠ BitVec.allOnes 64 →
      exec (.headerWrite addr beats) s = .next ({ s with hdr := h }.answering .ok []))
    ∧ (h.received = BitVec.allOnes 64 → s.cmd.run ≠ .running →
      exec (.headerWrite addr beats) s = .next ({ s with hdr := { h with received := 0 } }.answering .ok []))
    ∧ h = { s.hdr with line := h.line, received := h.received }
    ∧ ∀ i, i < 64 →
        let beat := beats[(i - off) / 8]?.getD ⟨0, 0⟩
        let strobed := decide (off ≤ i) && beat.strobes.getLsbD ((i - off) % 8)
        h.received.getLsbD i = (strobed || s.hdr.received.getLsbD i)
        ∧ h.byte i = if strobed = true then byteOf beat.data ((i - off) % 8) else s.hdr.byte i

/-- R22 to R31: a header that completes in RUNNING with no subframe open moves the lock, the last sequence and the bad-run
count by the table of chapter 2 and gets its disposition, RUN_FULL and MISMATCH before FOLDED; the counters rise and the
events are raised by R28 to R31; one that is not FOLDED makes a plain history entry and opens nothing (R40). Its burst is
answered OK and the blocks it does not concern stand. The whole is the evaluation of the header in the buffer. -/
def Obligations.HeaderMovesTheLock : Prop :=
  ∀ (s : State) (addr : BitVec 32) (beats : List Beat), s.takesIn (.write addr beats) .capture →
    let off := addr.toNat - s.active.captureBase.toNat
    let h := s.hdr.placeBytes (strobedBytes off beats)
    off < 4096 → h.received = BitVec.allOnes 64 → s.cmd.run = .running → s.hdr.opened = none →
    let bad := h.marker ≠ 0x7E51A3D2 ∨ h.lineSum % 65536 ≠ 0 ∨ h.exposure = 0
    let foreign := h.runTag ≠ s.cmd.snap.runTag
    let d := (h.seq - s.hdr.last).toNat
    ∃ t, exec (.headerWrite addr beats) s = .next t
      ∧ ((bad → s.hdr.lock = .hunt → t.hdr.lock = .hunt ∧ t.hdr.last = s.hdr.last ∧ t.hdr.badRun = s.hdr.badRun)
        ∧ (bad → s.hdr.lock = .probe → t.hdr.lock = .hunt ∧ t.hdr.last = s.hdr.last ∧ t.hdr.badRun = s.hdr.badRun)
        ∧ (bad → s.hdr.lock = .locked → s.hdr.badRun = 2 →
            t.hdr.lock = .hunt ∧ t.hdr.last = s.hdr.last ∧ t.hdr.badRun = 0 ∧ t.isRaised .lockLost = true)
        ∧ (bad → s.hdr.lock = .locked → s.hdr.badRun ≠ 2 →
            t.hdr.lock = .locked ∧ t.hdr.last = s.hdr.last ∧ t.hdr.badRun = s.hdr.badRun + 1)
        ∧ (¬bad → foreign →
            t.hdr.lock = s.hdr.lock ∧ t.hdr.last = s.hdr.last ∧ t.hdr.badRun = s.hdr.badRun)
        ∧ (¬bad → ¬foreign → s.hdr.lock = .hunt →
            t.hdr.lock = .probe ∧ t.hdr.last = h.seq ∧ t.hdr.badRun = s.hdr.badRun)
        ∧ (¬bad → ¬foreign → s.hdr.lock = .probe → d = 1 →
            t.hdr.lock = .locked ∧ t.hdr.last = h.seq ∧ t.hdr.badRun = 0 ∧ t.isRaised .lockAcquired = true)
        ∧ (¬bad → ¬foreign → s.hdr.lock = .probe → d ≠ 1 →
            t.hdr.lock = .probe ∧ t.hdr.last = h.seq ∧ t.hdr.badRun = s.hdr.badRun)
        ∧ (¬bad → ¬foreign → s.hdr.lock = .locked → d = 0 →
            t.hdr.lock = .locked ∧ t.hdr.last = s.hdr.last ∧ t.hdr.badRun = 0)
        ∧ (¬bad → ¬foreign → s.hdr.lock = .locked → 1 ≤ d → d ≤ 32768 →
            t.hdr.lock = .locked ∧ t.hdr.last = h.seq ∧ t.hdr.badRun = 0
              ∧ (t.counter .missingSubframes).toNat =
                  min 4294967295 ((s.counter .missingSubframes).toNat + (d - 1))
              ∧ (2 ≤ d → t.isRaised .sequenceGap = true))
        ∧ (¬bad → ¬foreign → s.hdr.lock = .locked → 32769 ≤ d →
            t.hdr.lock = .locked ∧ t.hdr.last = s.hdr.last ∧ t.hdr.badRun = s.hdr.badRun))
      ∧ t = (evaluateHeader { s with hdr := { h with received := 0 } }).answering .ok []
      ∧ (let valid := ¬bad ∧ ¬foreign
         let next := valid ∧ ((s.hdr.lock = .probe ∧ d = 1) ∨ (s.hdr.lock = .locked ∧ 1 ≤ d ∧ d ≤ 32768))
         let full := s.hdr.folded = 65535
         let other := s.cmd.mode = .dark ∧ s.dark.erefSet = true ∧ h.exposure ≠ s.dark.eref
         ∃ disp : Disposition,
          (bad → disp = .bad) ∧ (¬bad → foreign → disp = .foreign)
          ∧ (valid → (s.hdr.lock = .hunt ∨ (s.hdr.lock = .probe ∧ d ≠ 1)) → disp = .skipped)
          ∧ (valid → s.hdr.lock = .locked → d = 0 → disp = .duplicate)
          ∧ (valid → s.hdr.lock = .locked → 32769 ≤ d → disp = .stale)
          ∧ (next → full → disp = .runFull) ∧ (next → ¬full → other → disp = .mismatch)
          ∧ (next → ¬full → ¬other → disp = .folded)
          ∧ (∀ c, c ≠ .temperatureOutside → (t.counter c).toNat = min 4294967295 ((s.counter c).toNat +
              (if c = .headersCompleted ∨ (disp, c) ∈ [(.skipped, Counter.skipped), (.duplicate, .duplicate),
                  (.stale, .stale), (.bad, .bad), (.foreign, .foreign), (.mismatch, .mismatch), (.runFull, .runFull)] then 1
               else if c = .missingSubframes ∧ (disp = .folded ∨ disp = .runFull ∨ disp = .mismatch)
                  ∧ s.hdr.lock = .locked then d - 1
               else 0)))
          ∧ (t.isRaised .lockAcquired = true ↔ s.isRaised .lockAcquired = true ∨ (next ∧ s.hdr.lock = .probe))
          ∧ (t.isRaised .lockLost = true ↔
              s.isRaised .lockLost = true ∨ (bad ∧ s.hdr.lock = .locked ∧ s.hdr.badRun = 2))
          ∧ (t.isRaised .sequenceGap = true ↔
              s.isRaised .sequenceGap = true ∨ (next ∧ s.hdr.lock = .locked ∧ 2 ≤ d))
          ∧ (t.isRaised .runFull = true ↔ s.isRaised .runFull = true ∨ disp = .runFull)
          ∧ (∀ e, e ∈ [Event.commandDone, .checkpointDone, .memoryFault, .shortSubframe] → t.isRaised e = s.isRaised e)
          ∧ (disp ≠ .folded →
              t.hdr.opened = none ∧ t.hdr.folded = s.hdr.folded ∧ t.hdr.landing = s.hdr.landing ∧ t.dark = s.dark
              ∧ t.rot = s.rot ∧ t.counter .temperatureOutside = s.counter .temperatureOutside
              ∧ t.isRaised .tempOutside = s.isRaised .tempOutside
              ∧ t.hdr.head = s.hdr.head + 1 ∧ t.hdr.count = min 16 (s.hdr.count + 1)
              ∧ ∀ k, Table.get none t.hdr.history k =
                  if k = s.hdr.head.toNat then
                    some ⟨h.seq, disp, false, none, none, h.temperature, 0, h.exposure, h.timestamp, 0, 0, 0⟩
                  else Table.get none s.hdr.history k))
      ∧ t.answers = s.answers ++ [⟨.ok, []⟩] ∧ t.inHand = none ∧ t.hdr.received = 0 ∧ t.hdr.line = h.line
      ∧ t.cmd = s.cmd ∧ t.cache = s.cache ∧ t.arb = s.arb ∧ t.bulk = s.bulk ∧ t.classes = s.classes
      ∧ t.waiting = s.waiting ∧ t.planBase = s.planBase ∧ t.resetLow = s.resetLow ∧ t.pending = s.pending

/-- R30, R32, R40, R45, R47, R55, R93, R96: a HEADER_WRITE whose header completes in RUNNING with no subframe open and is
FOLDED opens a subframe: the folded count, t0, the phase, the dark choice of its run, the temperature sum and reference
exposure of a DARK run, the landing map, the context and the history entry. (Outside s64 the sum is a free value, log 10.) -/
def Obligations.FoldedHeaderOpensASubframe : Prop :=
  ∀ (s : State) (addr : BitVec 32) (beats : List Beat), s.takesIn (.write addr beats) .capture →
    let off := addr.toNat - s.active.captureBase.toNat
    let h := s.hdr.placeBytes (strobedBytes off beats)
    let d := (h.seq - s.hdr.last).toNat
    let k := s.hdr.folded + 1
    let tmid := h.timestamp + h.exposure / 2
    let sum := s.dark.tempSum.toInt + h.temperature.toInt
    off < 4096 → h.received = BitVec.allOnes 64 → s.cmd.run = .running → s.hdr.opened = none →
    h.marker = 0x7E51A3D2 → h.lineSum % 65536 = 0 → h.exposure ≠ 0 → h.runTag = s.cmd.snap.runTag →
    ((s.hdr.lock = .probe ∧ d = 1) ∨ (s.hdr.lock = .locked ∧ 1 ≤ d ∧ d ≤ 32768)) →
    s.hdr.folded ≠ 65535 → ¬(s.cmd.mode = .dark ∧ s.dark.erefSet = true ∧ h.exposure ≠ s.dark.eref) →
    ∃ t sub, exec (.headerWrite addr beats) s = .next t
      ∧ t.hdr.opened = some sub ∧ t.hdr.folded = k ∧ (∀ i, Table.get false t.hdr.landing i = false)
      ∧ t.hdr.lock = .locked ∧ t.hdr.last = h.seq ∧ t.hdr.badRun = 0
      ∧ sub.index = k ∧ sub.tmid = tmid ∧ sub.landed = 0 ∧ sub.temperature = h.temperature ∧ sub.exposure = h.exposure
      ∧ sub.phase = t.rot.phase ∧ sub.c = t.rot.c ∧ sub.s = t.rot.s ∧ sub.position = s.hdr.head
      ∧ t.rot.t0 = (if k = 1 ∧ s.rot.t0Set = false then tmid else s.rot.t0)
      ∧ t.rot.t0Set = (decide (k = 1) || s.rot.t0Set)
      ∧ (t.rot.phase.toNat : Int) = s.cmd.snap.rate.toInt * (if t.rot.t0Set = true then (tmid - t.rot.t0).toInt else 0) % 2 ^ 40
      ∧ t.rot.c = (cosSin t.rot.phase).1 ∧ t.rot.s = (cosSin t.rot.phase).2
      ∧ ((s.cmd.mode = .dark ∨ s.cmd.snap.darkUse = false) → sub.choice = ⟨none, none, 0⟩
        ∧ t.counter .temperatureOutside = s.counter .temperatureOutside ∧ t.isRaised .tempOutside = s.isRaised .tempOutside)
      ∧ (s.cmd.mode = .light → s.cmd.snap.darkUse = true →
        let ch := chooseSlots (s.dark.matching s.cmd.snap) h.temperature h.exposure
        sub.choice = ch.1
        ∧ (t.counter .temperatureOutside).toNat =
            min 4294967295 ((s.counter .temperatureOutside).toNat + if ch.2 = true then 1 else 0)
        ∧ t.isRaised .tempOutside = (ch.2 || s.isRaised .tempOutside))
      ∧ (s.cmd.mode = .light → t.dark = s.dark)
      ∧ (s.cmd.mode = .dark →
        t.dark.eref = (if s.dark.erefSet = true then s.dark.eref else h.exposure) ∧ t.dark.erefSet = true
        ∧ t.dark.slots = s.dark.slots
        ∧ (-(2 : Int) ^ 63 ≤ sum → sum < 2 ^ 63 → t.dark.tempSum.toInt = sum))
      ∧ t.hdr.head = s.hdr.head + 1 ∧ t.hdr.count = min 16 (s.hdr.count + 1)
      ∧ (∀ i, Table.get none t.hdr.history i =
          if i = s.hdr.head.toNat then
            some ⟨h.seq, .folded, true, sub.choice.a.map SlotUse.slot, sub.choice.b.map SlotUse.slot, h.temperature, k,
              h.exposure, h.timestamp, sub.choice.weight, sub.phase.extractLsb' 24 16, 0⟩
          else Table.get none s.hdr.history i)

/-- R22, R33 to R35, R159: a header that completes in RUNNING with a subframe open closes it, with the short-subframe test
and its history entry. Where its fold index is a multiple of the span an automatic checkpoint begins, the burst in hand and
unanswered and the unit READY; else the header goes on as one that finds the subframe already closed. -/
def Obligations.HeaderStartsAutomaticCheckpoint : Prop :=
  ∀ (s : State) (addr : BitVec 32) (beats : List Beat) (sub : Subframe), s.takesIn (.write addr beats) .capture →
    let off := addr.toNat - s.active.captureBase.toNat
    let h := s.hdr.placeBytes (strobedBytes off beats)
    let due := s.cmd.snap.span ≠ 0 ∧ sub.index.toNat % s.cmd.snap.span.toNat = 0
    let q := if sub.landed < s.cmd.snap.width.toNat / 32 * s.cmd.snap.height.toNat then
        raise .shortSubframe (count .shortSubframes 1 s) else s
    off < 4096 → h.received = BitVec.allOnes 64 → s.cmd.run = .running → s.hdr.opened = some sub →
    (due → ∃ t, exec (.headerWrite addr beats) s = .next t
      ∧ { q with hdr := { h with received := 0 }.closeSubframe
                 inHand := some .header
                 cmd := { s.cmd with saving := some .automatic } }.beginsFlush t)
    ∧ (¬due → exec (.headerWrite addr beats) s = exec (.headerWrite addr beats) { q with hdr := s.hdr.closeSubframe })
    ∧ s.hdr.closeSubframe = { s.hdr with opened := none, history := s.hdr.closeSubframe.history }
    ∧ ∀ i, Table.get none s.hdr.closeSubframe.history i =
        if i = sub.position.toNat then
          (Table.get none s.hdr.history i).map fun e => { e with isOpen := false, landed := sub.landed }
        else Table.get none s.hdr.history i

/-- R10, R11, R37, R38: image bursts that land nothing. A malformed one is answered OK and counted. In a well-formed one, of 8
or 16 beats, each 64 bytes are dealt with in address order: padding has no effect, a block with no subframe open counts 8
idle-capture beats, and one that has landed already in the open subframe is counted as a repeat. The burst is answered OK and
nothing else changes but that no sector is held. -/
def Obligations.BurstsThatLandNothing : Prop :=
  ∀ (s : State) (addr : BitVec 32) (beats : List Beat), s.takesIn (.write addr beats) .capture →
    4096 ≤ addr.toNat - s.active.captureBase.toNat →
    let off := addr.toNat - s.active.captureBase.toNat - 4096
    let f := s.active
    let inImage (o : Nat) := o % f.pitch.toNat < 2 * f.width.toNat
    let landsNot (o : Nat) := inImage o → s.hdr.opened ≠ none →
      Table.get false s.hdr.landing (o / f.pitch.toNat * (f.width.toNat / 32) + o % f.pitch.toNat / 64) = true
    let unit (o : Nat) (u : State) :=
      if inImage o then (if s.hdr.opened = none then count .idleCaptureBeats 8 u else count .repeatBlocks 1 u) else u
    (((beats.length ≠ 8 ∧ beats.length ≠ 16) ∨ addr.toNat % 64 ≠ 0 ∨ ∃ x, x ∈ beats ∧ x.strobes ≠ 0xFF) →
      exec (.captureWrite addr beats) s = .next ((count .malformedBursts 1 s).answering .ok []))
    ∧ (addr.toNat % 64 = 0 → (∀ x, x ∈ beats → x.strobes = 0xFF) → landsNot off →
      (beats.length = 8 → exec (.captureWrite addr beats) s = .next ((unit off s).released.answering .ok []))
      ∧ (beats.length = 16 → landsNot (off + 64) →
        exec (.captureWrite addr beats) s = .next ((unit (off + 64) (unit off s)).released.answering .ok [])))

/-- R11, R37, R69, R73 to R90, R100, R109 to R117: image bursts in a subframe using no slot. The block that lands, alone or
beside padding or a repeat, or both of a burst, fold in address order (`blocksLeadTo`), sample by sample (`foldLeadsTo`). A
sample on an EXCLUDE tile of a LIGHT run is dropped; on a TRACK tile it reaches the record it is turned to, or is spilled; else
it reaches its own. The sector that holds the tile serves it, or for an untouched tile in no sector one taken fresh: the lowest
FREE one or else the least recent eligible one. For a touched tile in no sector the fill begins there. A DIRTY victim's
eviction begins, and with none eligible the block waits, the samples before the one that waits being done. In sum, a block
that meets no wait leaves its row of the tile, or all the records its samples are turned to, as its samples in column order
make them. The burst is answered OK and its sectors are released once its last block has folded. (That both blocks land before
the first folds is log 30, DEDUCED.) -/
def Obligations.BlockFoldsIntoItsTile : Prop :=
  ∀ (s : State) (addr : BitVec 32) (beats : List Beat) (sub : Subframe), sub.choice = ⟨none, none, 0⟩ →
    let f := s.cmd.snap
    let out (t : State) := exec (.captureWrite addr beats) s = .next t
    let block (o : Nat) (bs : List Beat) : Block :=
      ⟨o / f.pitch.toNat, o % f.pitch.toNat / 64, decodeBlock f (o % f.pitch.toNat / 64) bs, none, none, 0⟩
    (∀ o bs q, s.landsOne sub addr beats o bs q → q.blocksLeadTo out [block o bs])
    ∧ ∀ o q, s.landsBoth sub addr beats o q →
      q.blocksLeadTo out [block o (beats.take 8), block (o + 64) (beats.drop 8)]

/-- R11, R37, R50, R51: image bursts in a subframe using one slot or two. A block that lands sets its mark, is counted, and has
a dark fetch of each slot requested at plane base + tile · 2048 + row of the tile · 64; a fetch whose address is at or above
2^31 or not a multiple of 64 fails then. The blocks of the burst with a fetch to be placed wait in hand; one whose fetches have
all failed is discarded, counted, and MEMORY_FAULT is raised, and with no block left the burst is answered OK. A burst of 16
beats lands two blocks so, in address order, or the one that lands beside padding or a repeat. Nothing else changes. (That both
land before the first folds is log 30, that a failed block is discarded before an earlier one folds log 11, DEDUCED.) -/
def Obligations.BlockLandsAndItsFetchIsRequested : Prop :=
  ∀ (s : State) (addr : BitVec 32) (beats : List Beat) (sub : Subframe) (a : SlotUse × Slot) (b : Option (SlotUse × Slot)),
    sub.choice.a = some a.1 → sub.choice.b = b.map Prod.fst →
    (∀ p, p = a ∨ b = some p → s.dark.slot p.1.slot = some p.2) →
    let f := s.cmd.snap
    let out (t : State) := exec (.captureWrite addr beats) s = .next t
    let fetch (o : Nat) (p : SlotUse × Slot) : Fetch :=
      let at_ := p.2.base.toNat
        + (o / f.pitch.toNat / 32 * (f.width.toNat / 32) + o % f.pitch.toNat / 64) * 2048 + o / f.pitch.toNat % 32 * 64
      ⟨at_, p.1.scale, if 2147483648 ≤ at_ ∨ at_ % 64 ≠ 0 then .failed else .wanted⟩
    let block (o : Nat) (bs : List Beat) : Block :=
      ⟨o / f.pitch.toNat, o % f.pitch.toNat / 64, decodeBlock f (o % f.pitch.toNat / 64) bs, some (fetch o a), b.map (fetch o),
        sub.choice.weight⟩
    let waits (x : Block) : Bool :=
      (x.fetchA.any fun g => decide (g.state = .wanted)) || x.fetchB.any fun g => decide (g.state = .wanted)
    let goesOn (q : State) (blocks : List Block) : State :=
      let failed := blocks.countP fun x => !waits x
      let v := if failed = 0 then q else raise .memoryFault (count .darkReadErrors failed q)
      if blocks.all (fun x => !waits x) then v.burstEnds
      else { v with inHand := some (.capture ⟨none, blocks.filter waits⟩) }
    (∀ o bs q, s.landsOne sub addr beats o bs q → out (goesOn q [block o bs]))
    ∧ ∀ o q, s.landsBoth sub addr beats o q →
      out (goesOn q [block o (beats.take 8), block (o + 64) (beats.drop 8)])

/-- R12, R13: where a block's two-beat-order and lane code put the value of place i, lane L: column 4i' + ((code >> 2L) & 3). -/
def Obligations.BlockDecodingFollowsItsCodes : Prop :=
  ∀ (f : Frozen) (j i l : Nat) (beats : List Beat), i < 8 → l < 4 →
    let code := if j % 2 = 1 then f.oddCode else f.evenCode
    let i' := if j % 2 = 1 ∧ f.oddReverse = true then 7 - i else i
    isPermutation code = true → beats.length = 8 →
    (decodeBlock f j beats)[4 * i' + code.toNat / 4 ^ l % 4]? =
      (beats[i]?).map fun b => b.data.extractLsb' (16 * l) 16

/-! ## The fold -/

/-- R81 to R87: what a sample of fold index k makes of the record it reaches for: collided; saturated; trail fold; first,
warm-up or tested acceptance; rejection. (A record with n = 0 and a sum other than 0, which the part never builds, follows
R84's "Sum becomes x": log 14.) -/
def Obligations.SampleAtItsRecord : Prop :=
  ∀ (f : Frozen) (cls : TileClass) (k raw dark : BitVec 16) (r : Rec), cls ≠ .exclude →
    let x := raw.toNat - dark.toNat
    let m := r.sum.toNat / r.n.toNat
    let d := max (x - m) (m - x)
    let bound := (f.kq.toNat * max r.dev.toNat f.devfloor.toNat + 2) / 4
    let p := max r.peak.toNat x
    let t := r.absorb f cls k raw dark
    (k.toNat ≤ r.stamp.toNat → t = (.collided, r))
    ∧ (r.stamp.toNat < k.toNat → t.2.stamp = k
      ∧ (f.satlevel.toNat ≤ raw.toNat →
          t.1 = .saturated ∧ t.2 = { r with stamp := k, peak := 65535 })
      ∧ (raw.toNat < f.satlevel.toNat → cls = .trail →
          t.1 = .trail ∧ t.2.dev = r.dev ∧ t.2.peak.toNat = p
          ∧ t.2.sum.toNat = min 4294967295 (r.sum.toNat + x) ∧ t.2.n.toNat = min 65535 (r.n.toNat + 1))
      ∧ (raw.toNat < f.satlevel.toNat → cls ≠ .trail → r.n = 0 →
          t.1 = .accepted ∧ t.2.dev = r.dev ∧ t.2.peak.toNat = p ∧ t.2.sum.toNat = x ∧ t.2.n = 1)
      ∧ (raw.toNat < f.satlevel.toNat → cls ≠ .trail → r.n ≠ 0 → (r.n.toNat < f.nwarm.toNat ∨ d ≤ bound) →
          t.1 = .accepted ∧ t.2.peak.toNat = p
          ∧ t.2.sum.toNat = min 4294967295 (r.sum.toNat + x) ∧ t.2.n.toNat = min 65535 (r.n.toNat + 1)
          ∧ (t.2.dev.toNat : Int) = min 65535 ((r.dev.toNat : Int) + Int.fdiv ((d : Int) - r.dev.toNat) 16))
      ∧ (raw.toNat < f.satlevel.toNat → cls ≠ .trail → r.n ≠ 0 → f.nwarm.toNat ≤ r.n.toNat → bound < d →
          t.1 = .rejected ∧ t.2.peak.toNat = p ∧ t.2.sum = r.sum ∧ t.2.n = r.n
          ∧ t.2.dev.toNat = min 65535 (r.dev.toNat + max 1 (r.dev.toNat / 16))))

/-- R48, R52, R53, R59: the dark value of a pixel from the values and scales of its slots: hot where any value is 0xFFFF,
else scaled and, with two slots, blended; the exposure scale of a slot, half-up(E · 4096 / Eref) held at 65535, 65535 for an
Eref of 0; and the plane value COMMIT_DARK makes of a record: 0 where n is 0, 0xFFFF where the mean rounded half-even reaches
the threshold, else the mean, at most 65534. -/
def Obligations.DarkAndPlaneValues : Prop :=
  (∀ (d e q p : BitVec 16) (w : BitVec 8),
    let ds := min 65535 ((d.toNat * q.toNat + 2048) / 4096)
    let es := min 65535 ((e.toNat * p.toNat + 2048) / 4096)
    darkOf none none w = .level 0
    ∧ (d = 0xFFFF → darkOf (some (d, q)) none w = .hot)
    ∧ (d ≠ 0xFFFF → ∃ v, darkOf (some (d, q)) none w = .level v ∧ v.toNat = ds)
    ∧ (d = 0xFFFF ∨ e = 0xFFFF → darkOf (some (d, q)) (some (e, p)) w = .hot)
    ∧ (d ≠ 0xFFFF → e ≠ 0xFFFF → ∃ v, darkOf (some (d, q)) (some (e, p)) w = .level v
        ∧ v.toNat = (ds * (256 - w.toNat) + es * w.toNat + 128) / 256))
  ∧ (∀ (exposure eref : BitVec 32) (p : Nat × Slot),
    useSlot exposure p = ⟨p.1, exposureScale exposure p.2.eref⟩
    ∧ (eref = 0 → exposureScale exposure eref = 65535)
    ∧ (eref ≠ 0 → ∃ m : Nat, 2 * m * eref.toNat ≤ 2 * (exposure.toNat * 4096) + eref.toNat
        ∧ 2 * (exposure.toNat * 4096) + eref.toNat < 2 * (m + 1) * eref.toNat
        ∧ (exposureScale exposure eref).toNat = min 65535 m))
  ∧ ∀ (hot : BitVec 16) (r : Rec),
    (r.n = 0 → planeValue hot r = 0)
    ∧ (r.n ≠ 0 → ∃ m : Nat,
        2 * max (r.sum.toNat - m * r.n.toNat) (m * r.n.toNat - r.sum.toNat) ≤ r.n.toNat
        ∧ (2 * max (r.sum.toNat - m * r.n.toNat) (m * r.n.toNat - r.sum.toNat) = r.n.toNat → m % 2 = 0)
        ∧ (planeValue hot r).toNat = if hot.toNat ≤ m then 65535 else min m 65534)

/-- R46: the two candidates among the matching slots (the lower has the greatest temperature not above t, the upper the
least above t, the lowest slot number where several share it), and the four cases of the choice, with the mark of the two
outside cases. -/
def Obligations.SlotChoiceOfASubframe : Prop :=
  ∀ (d : DarkUnit) (f : Frozen) (temperature : BitVec 16) (exposure : BitVec 32), d.matching f ≠ [] →
    let t := temperature.toInt
    let temp (p : Nat × Slot) : Int := p.2.temperature.toInt
    ∃ lower upper : Option (Nat × Slot),
      (∀ p, lower = some p → p ∈ d.matching f ∧ temp p ≤ t
        ∧ ∀ q, q ∈ d.matching f → temp q ≤ t → temp q < temp p ∨ (temp q = temp p ∧ p.1 ≤ q.1))
      ∧ (∀ p, upper = some p → p ∈ d.matching f ∧ t < temp p
        ∧ ∀ q, q ∈ d.matching f → t < temp q → temp p < temp q ∨ (temp q = temp p ∧ p.1 ≤ q.1))
      ∧ (lower = none → ∀ q, q ∈ d.matching f → t < temp q)
      ∧ (upper = none → ∀ q, q ∈ d.matching f → temp q ≤ t)
      ∧ (lower ≠ none ∨ upper ≠ none)
      ∧ (∀ a, lower = some a → temp a = t →
        chooseSlots (d.matching f) temperature exposure = (⟨some (useSlot exposure a), none, 0⟩, false))
      ∧ (∀ a b, lower = some a → upper = some b → temp a < t → ∃ w : BitVec 8,
        (w.toNat : Int) = Int.fdiv ((t - temp a) * 256) (temp b - temp a)
        ∧ chooseSlots (d.matching f) temperature exposure
            = (⟨some (useSlot exposure a), some (useSlot exposure b), w⟩, false))
      ∧ (∀ b, lower = none → upper = some b →
        chooseSlots (d.matching f) temperature exposure = (⟨some (useSlot exposure b), none, 0⟩, true))
      ∧ (∀ a, lower = some a → upper = none → temp a < t →
        chooseSlots (d.matching f) temperature exposure = (⟨some (useSlot exposure a), none, 0⟩, true))

/-- R100 to R102: the destination of a TRACK source, rounded to the nearest pixel of the colour plane with a tie going away
from zero, in the source's channel; none off the image. `u` and `v` count 2^-34 plane pixel. -/
def Obligations.DestinationOfATrackSource : Prop :=
  ∀ (f : Frozen) (c s : Int) (x y : Nat),
    let u := f.poleA.toInt * 2 ^ 30 + c * (16 * (x / 2 : Nat) - f.poleA.toInt)
      - s * (16 * (y / 2 : Nat) - f.poleB.toInt)
    let v := f.poleB.toInt * 2 ^ 30 + s * (16 * (x / 2 : Nat) - f.poleA.toInt)
      + c * (16 * (y / 2 : Nat) - f.poleB.toInt)
    ∃ ua va : Int,
      (2 * (ua * 2 ^ 34 - u).natAbs ≤ 2 ^ 34 ∧ (2 * (ua * 2 ^ 34 - u).natAbs = 2 ^ 34 → u.natAbs < (ua * 2 ^ 34).natAbs))
      ∧ (2 * (va * 2 ^ 34 - v).natAbs ≤ 2 ^ 34 ∧ (2 * (va * 2 ^ 34 - v).natAbs = 2 ^ 34 → v.natAbs < (va * 2 ^ 34).natAbs))
      ∧ destination f c s x y =
        if 0 ≤ ua ∧ 2 * ua < f.width.toNat ∧ 0 ≤ va ∧ 2 * va < f.height.toNat then
          some (2 * ua.toNat + x % 2, 2 * va.toNat + y % 2)
        else none

/-- R94, R96, R97: at an opening the elapsed time is tmid - t0 modulo 2^32 read as signed, 0 while the flag is clear; the
phase is rate · Δt modulo 2^40, a remainder from 0, the product at most 2^62 in magnitude; and c and s, which count
multiples of 2^-30, are the cosine and sine of the phase to within half a multiple and 2^-20 of one (the nearest multiple
itself is log 7, UNVERIFIED), exact at the four quarter turns. -/
def Obligations.PhaseIsRateTimesElapsed : Prop :=
  (∀ (r : RotationUnit) (rate : BitVec 32) (index : BitVec 16) (tmid : BitVec 32),
    let t := r.openSubframe rate index tmid
    let product := rate.toInt * t.elapsed tmid
    product.natAbs ≤ 2 ^ 62 ∧ (t.phase.toNat : Int) = product % 2 ^ 40 ∧ 0 ≤ product % 2 ^ 40
    ∧ t.c = (cosSin t.phase).1 ∧ t.s = (cosSin t.phase).2)
  ∧ (∀ (r : RotationUnit) (tmid : BitVec 32),
    (r.t0Set = false → r.elapsed tmid = 0)
    ∧ (r.t0Set = true → -2147483648 ≤ r.elapsed tmid ∧ r.elapsed tmid ≤ 2147483647
      ∧ (r.elapsed tmid - ((tmid.toNat : Int) - r.t0.toNat)) % 2 ^ 32 = 0))
  ∧ cosSin 0 = (2 ^ 30, 0) ∧ cosSin (2 ^ 38) = (0, 2 ^ 30) ∧ cosSin (2 ^ 39) = (-2 ^ 30, 0)
  ∧ cosSin (3 * 2 ^ 38) = (0, -2 ^ 30)
  ∧ ∀ phase : BitVec 40,
    let angle : ℝ := 2 * Real.pi * phase.toNat / 2 ^ 40
    |((cosSin phase).1 : ℝ) - 2 ^ 30 * Real.cos angle| ≤ 1 / 2 + 1 / 2 ^ 20
    ∧ |((cosSin phase).2 : ℝ) - 2 ^ 30 * Real.sin angle| ≤ 1 / 2 + 1 / 2 ^ 20

/-! ## Finishing -/

/-- R133: an EXCLUDE pixel shows the fill value, its tile not accessed; in a DARK run no pixel is EXCLUDE. -/
def Obligations.ExcludePixelsShowTheFill : Prop :=
  ∀ (f : Frozen) (s : State) (x y : Nat),
    (s.cmd.mode = .light → s.classOf (y / 32 * (f.width.toNat / 32) + x / 32) = .exclude →
      finishOwn f x y s = .value s s.cmd.plan.fill)
    ∧ (s.cmd.mode = .dark → ∀ tile, s.finishClass tile = .ground)

/-- R131, R134 to R137: the value of a pixel whose record a resident sector or fresh records supply. The coverage view shows
its n, whatever its class; the image view shows the scaled mean, the greater of
mean and peak for TRAIL, 65535 for a pixel of saturated samples alone. A pixel with n 0 and another peak shows its left
neighbour two columns away if that has n of 1 or more and is not EXCLUDE, else the right one under the same conditions, else
the fill value. -/
def Obligations.FinishedValueOfARecord : Prop :=
  ∀ (f : Frozen) (s t : State) (x y : Nat) (r : Rec),
    let cls := s.finishClass (f.tileOf x y)
    let left := s.finishClass (f.tileOf (x - 2) y)
    let right := s.finishClass (f.tileOf (x + 2) y)
    let goesLeft := 2 ≤ x ∧ left ≠ .exclude
    let goesRight := x + 2 < f.width.toNat ∧ right ≠ .exclude
    readRecord f x y s = .got t r →
    t.cmd = s.cmd ∧ t.classes = s.classes ∧ t.rep = s.rep ∧ t.cache.touched = s.cache.touched
    ∧ coverPixel f x y s = .value t r.n
    ∧ (cls ≠ .exclude → r.n ≠ 0 → ∃ v, finishOwn f x y s = .value t v ∧ s.cmd.plan.shows cls r v)
    ∧ (cls ≠ .exclude → r.n = 0 → r.peak = 65535 → finishOwn f x y s = .value t 65535)
    ∧ (cls ≠ .exclude → r.n = 0 → r.peak ≠ 65535 →
      (∀ u p, goesLeft → readRecord f (x - 2) y t = .got u p → p.n ≠ 0 →
        ∃ v, finishOwn f x y s = .value u v ∧ s.cmd.plan.shows left p v)
      ∧ ∀ u, ((¬goesLeft ∧ u = t) ∨ (goesLeft ∧ ∃ p, readRecord f (x - 2) y t = .got u p ∧ p.n = 0)) →
        (¬goesRight → finishOwn f x y s = .value u s.cmd.plan.fill)
        ∧ ∀ w p, goesRight → readRecord f (x + 2) y u = .got w p →
          (p.n = 0 → finishOwn f x y s = .value w s.cmd.plan.fill)
          ∧ (p.n ≠ 0 → ∃ v, finishOwn f x y s = .value w v ∧ s.cmd.plan.shows right p v))

/-- R112 to R114, R116, R117, R128, R129, R131 to R137, R140: result reads. With no tile touched and no sector in use one is
answered OK at once: byte by byte the image view shows the fill value and the coverage view 0 at every pixel, low byte first,
padding shows 0, and nothing else changes. Any read, over however many tiles, is finished pixel by pixel in ascending order
(`readLeadsTo`): padding shows 0; a coverage pixel its n; an image pixel the fill value under EXCLUDE, else the finished value
of its record, 65535 where n is 0 and the peak 65535, or its left neighbour's value, its right one's or the fill value. Each
record comes from the tile's sector, or is fresh for an untouched tile in no sector. Where one cannot be had the read waits in
hand at that pixel or that neighbour: a touched tile's fill begins in the lowest FREE sector or a CLEAN victim, or the eviction
of a DIRTY victim begins, or none is eligible. (In IDLE the pixels and the padding are those of the plan shadow's geometry, log
15, DEDUCED. The pitch of a legal geometry is a multiple of 64.) -/
def Obligations.ResultReadsAreFinishedPixelByPixel : Prop :=
  ∀ (s : State) (addr : BitVec 32) (n : Nat) (w : Window), s.takesIn (.read addr n) w → (w = .image ∨ w = .coverage) →
    let p := s.active.pitch.toNat
    let first := addr.toNat - (s.active.resultBase.toNat + (if w = .image then 0 else s.active.viewSize))
    (s.cache.sectors = [] → (∀ tile, s.cache.isTouched tile = false) → p % 64 = 0 →
      ∃ beats, exec (.resultRead addr n) s = .next (s.answering .ok beats) ∧ beats.length = n
        ∧ ∀ k b, k < n → b < 8 →
          let o := first + 8 * k + b
          byteOf (beats[k]?.getD 0) b =
            if w = .image ∧ o / p < s.active.height.toNat ∧ o % p < 2 * s.active.width.toNat then
              byteOf s.cmd.plan.fill (o % 2)
            else 0)
    ∧ s.readLeadsTo ⟨if w = .image then .image else .coverage, s.active, first, n, 0, .own, []⟩
        (fun m beats => exec (.resultRead addr n) s = .next (m.readEnds beats))
        fun v rd => exec (.resultRead addr n) s = .next { v with inHand := some (.result rd) }

/-- R183, R184, section 11.3: a report page read is answered OK beat by beat from one capture of the page, and changes
nothing; the page holds each value at its offset and 0 in every byte that carries none. (What bits 18 to 31 of the event
levels show is free, log 8. That the two flag bytes of the snapshot, at 0x0C6 and 0x0C7, show 0 or 1 and no other bit is log
26, DEDUCED; that t0 shows what the Rotation Unit holds though its flag be clear is log 41, the model's choice.) -/
def Obligations.ReportReadIsOneCapture : Prop :=
  ∀ (s : State) (off : BitVec 12) (n : Nat), s.takesIn (.read (s.reportAddr off.toNat) n) .report →
    ∃ beats page, exec (.reportRead off n) s = .next (s.answering .ok beats) ∧ beats.length = n
      ∧ (∀ k, k < n → (beats[k]?.getD 0).toNat = fieldAt page (off.toNat + 8 * k) 8)
      ∧ let shows (o len v : Nat) := fieldAt page o len = v
        let flag (b : Bool) : Nat := if b = true then 1 else 0
        shows 0x000 1 (flag s.cmd.inFlight.isSome)
        ∧ shows 0x001 1 (match s.cmd.run with | .idle => 0 | .running => 1 | .ending => 2 | .ended => 3)
        ∧ shows 0x002 1 (match s.cmd.mode with | .light => 0 | .dark => 1)
        ∧ shows 0x003 1 (match s.hdr.lock with | .hunt => 0 | .probe => 1 | .locked => 2)
        ∧ shows 0x004 2 s.cmd.record.code.toNat ∧ shows 0x006 2 s.cmd.record.arg.toNat
        ∧ shows 0x008 2 (match s.cmd.record.outcome with
          | none => 0xFFFF | some .done => 0 | some .badCommand => 1 | some .wrongState => 2 | some .badPlan => 3
          | some .noDark => 4 | some .badSlot => 5 | some .badContext => 6 | some .emptyRun => 7
          | some .memoryFault => 8 | some .aborted => 9)
        ∧ shows 0x00A 2 s.cmd.record.aborted.toNat ∧ shows 0x00C 2 s.cmd.taken.toNat
        ∧ shows 0x00E 2 s.cmd.lastRefused.toNat ∧ shows 0x010 4 s.cmd.progress.toNat
        ∧ shows 0x014 2 s.rep.raised.toNat ∧ shows 0x016 1 (flag s.attn + 2 * flag s.alert)
        ∧ shows 0x017 1 s.rep.clampMask.toNat ∧ shows 0x018 2 s.hdr.last.toNat ∧ shows 0x01A 2 s.hdr.folded.toNat
        ∧ shows 0x01C 2 (match s.hdr.opened with | some sub => sub.index.toNat | none => 0)
        ∧ shows 0x01E 1 (s.hdr.badRun % 256) ∧ shows 0x01F 1 0 ∧ shows 0x020 1 s.hdr.head.toNat
        ∧ shows 0x021 1 (s.hdr.count % 256) ∧ shows 0x022 1 (flag s.rot.t0Set) ∧ shows 0x023 1 (flag s.dark.erefSet)
        ∧ shows 0x024 4 s.rot.t0.toNat ∧ shows 0x028 4 s.dark.eref.toNat
        ∧ shows 0x02C 2 (s.cache.firstFillError.getD 0 % 65536) ∧ shows 0x02E 1 (flag s.cache.firstFillError.isSome)
        ∧ shows 0x02F 1 0 ∧ shows 0x030 8 s.dark.tempSum.toNat ∧ shows 0x038 2 s.cmd.plan.gain.toNat
        ∧ shows 0x03A 2 s.cmd.plan.trailGain.toNat ∧ shows 0x03C 2 s.cmd.plan.fill.toNat
        ∧ shows 0x03E 2 s.cmd.plan.hotThreshold.toNat ∧ shows 0x040 1 s.cmd.plan.classPage.toNat ∧ shows 0x041 3 0
        ∧ fieldAt page 0x044 4 % 2 ^ 18 = s.cmd.plan.levels.toNat % 2 ^ 18
        ∧ shows 0x048 4 s.rep.hotMarked.toNat ∧ shows 0x04C 4 s.rep.uncovered.toNat
        ∧ (∀ i c, [Counter.headersCompleted, .skipped, .duplicate, .stale, .bad, .foreign, .mismatch, .runFull,
            .missingSubframes, .shortSubframes, .blocksLanded, .repeatBlocks, .malformedBursts, .idleCaptureBeats,
            .hotSkips, .rejected, .saturated, .spilled, .collided, .temperatureOutside, .darkReadErrors, .fillErrors,
            .writebackFailures, .lostTiles, .checkpoints, .checkpointFailures, .refusedWhileBusy,
            .classWritesIgnored][i]? = some c → shows (0x050 + 4 * i) 4 (s.counter c).toNat)
        ∧ shows 0x0C0 2 s.cmd.snap.width.toNat ∧ shows 0x0C2 2 s.cmd.snap.height.toNat
        ∧ shows 0x0C4 2 s.cmd.snap.pitch.toNat ∧ shows 0x0C6 1 (flag s.cmd.snap.darkUse)
        ∧ shows 0x0C7 1 (flag s.cmd.snap.oddReverse) ∧ shows 0x0C8 4 s.cmd.snap.captureBase.toNat
        ∧ shows 0x0CC 4 s.cmd.snap.resultBase.toNat ∧ shows 0x0D0 4 s.cmd.snap.accBase.toNat
        ∧ shows 0x0D4 4 s.cmd.snap.darkBase.toNat ∧ shows 0x0D8 4 s.cmd.snap.ckptBase.toNat
        ∧ shows 0x0DC 4 s.cmd.snap.runTag.toNat ∧ shows 0x0E0 1 s.cmd.snap.evenCode.toNat
        ∧ shows 0x0E1 1 s.cmd.snap.oddCode.toNat ∧ shows 0x0E2 1 s.cmd.snap.nwarm.toNat
        ∧ shows 0x0E3 1 s.cmd.snap.kq.toNat ∧ shows 0x0E4 2 s.cmd.snap.devfloor.toNat
        ∧ shows 0x0E6 2 s.cmd.snap.devinit.toNat ∧ shows 0x0E8 2 s.cmd.snap.satlevel.toNat
        ∧ shows 0x0EA 2 s.cmd.snap.span.toNat ∧ shows 0x0EC 4 s.cmd.snap.poleA.toNat
        ∧ shows 0x0F0 4 s.cmd.snap.poleB.toNat ∧ shows 0x0F4 4 s.cmd.snap.rate.toNat ∧ shows 0x0F8 8 0
        ∧ (∀ i, i < 4 → let o := 0x100 + 32 * i
            match s.dark.slot i with
            | none => shows o 32 0
            | some x => shows o 1 (if x.building = true then 1 else 2) ∧ shows (o + 1) 1 0
                ∧ shows (o + 2) 2 x.temperature.toNat ∧ shows (o + 4) 4 x.eref.toNat ∧ shows (o + 8) 2 x.frames.toNat
                ∧ shows (o + 10) 2 x.width.toNat ∧ shows (o + 12) 2 x.height.toNat ∧ shows (o + 14) 2 0
                ∧ shows (o + 16) 4 x.base.toNat ∧ shows (o + 20) 12 0)
        ∧ shows 0x180 128 0
        ∧ (∀ i, i < 16 → let o := 0x200 + 32 * i
            match Table.get none s.hdr.history i with
            | none => shows o 32 0
            | some e => shows o 2 e.seq.toNat
                ∧ shows (o + 2) 1 (match e.disposition with
                  | .folded => 0 | .skipped => 1 | .duplicate => 2 | .stale => 3 | .bad => 4 | .foreign => 5
                  | .mismatch => 6 | .runFull => 7)
                ∧ shows (o + 3) 1 (1 + 2 * flag e.isOpen + 4 * flag e.slotA.isSome + 8 * flag e.slotB.isSome)
                ∧ shows (o + 4) 2 e.temperature.toNat ∧ shows (o + 6) 2 e.index.toNat
                ∧ shows (o + 8) 4 e.exposure.toNat ∧ shows (o + 12) 4 e.timestamp.toNat
                ∧ shows (o + 16) 1 (e.slotA.getD 0 % 256) ∧ shows (o + 17) 1 (e.slotB.getD 0 % 256)
                ∧ shows (o + 18) 1 e.weight.toNat ∧ shows (o + 19) 1 0 ∧ shows (o + 20) 2 e.phase.toNat
                ∧ shows (o + 22) 2 0 ∧ shows (o + 24) 4 (e.landed % 2 ^ 20) ∧ shows (o + 28) 4 0)
        ∧ shows 0x400 3072 0

/-! ## The M-link -/

/-- R176 to R179: a grant goes to the first presenting requester with pass count 16, else to the first presenting one; its
transaction is placed and the pass counts follow. With nothing presented, 8 in flight or RST_N low none is made (that the
command then changes nothing is log 25, DEDUCED). What each requester presents: the carried request (R174); the wanted fetch
of the block that landed first (R50; log 36, the model's choice), slot a's before slot b's; the next read of the fill (R118);
the next write of the writeback with the records' bytes (R120); and for the Bulk Mover the next transaction of its operation,
with its address and bytes (R58, R59, R64, R66, R155, R160), where RESUME presents no read after an error or an ABORT (logs 22
and 37, the model's reading), COMMIT_DARK no plane write after an error (log 29), all 96 reads whatever their answers (log
21), and both to the end of the tile in hand though an ABORT be pending (log 12, DEDUCED: R63 speaks of plane writes already
placed); these reads and writes go in ascending address order (log 43, the model's choice). The requester whose transaction is
placed goes on to its next: the request or the fetch counts as placed, the count placed of a fill, a writeback or an operation
rises by 1. -/
def Obligations.GrantFollowsOrderAndPassCounts : Prop :=
  ∀ s : State,
    let notWanted (g : Option Fetch) := ∀ f, g = some f → f.state ≠ .wanted
    let accAddr (tile part : Nat) := BitVec.ofNat 32 (s.cmd.snap.accBase.toNat + tile * 12288 + 128 * part)
    ((∀ r, s.inHand = some (.through r false) → s.presents .passThrough = some (.passThrough, r))
      ∧ ((∀ r, s.inHand ≠ some (.through r false)) → s.presents .passThrough = none))
    ∧ ((∀ cap before b after f, s.inHand = some (.capture cap) → cap.blocks = before ++ b :: after →
        (∀ c, c ∈ before → notWanted c.fetchA ∧ notWanted c.fetchB) → f.state = .wanted →
        (b.fetchA = some f → s.presents .darkFetch =
          some (.darkFetch b.row b.block false, .read (BitVec.ofNat 32 f.addr) 8))
        ∧ (notWanted b.fetchA → b.fetchB = some f → s.presents .darkFetch =
          some (.darkFetch b.row b.block true, .read (BitVec.ofNat 32 f.addr) 8)))
      ∧ ((∀ b, b ∈ s.blocksInHand → notWanted b.fetchA ∧ notWanted b.fetchB) → s.presents .darkFetch = none))
    ∧ ((∀ f, s.cache.fill = some f → f.placed < 96 →
        s.presents .sectorFill = some (.fill f.placed, .read (accAddr f.tile f.placed) 16))
      ∧ ((∀ f, s.cache.fill = some f → 96 ≤ f.placed) → s.presents .sectorFill = none))
    ∧ ((∀ w x, s.cache.writeback = some w → s.cache.sector w.sector = some x → w.placed < 96 →
        ∃ beats, s.presents .sectorWriteback =
            some (if w.forFlush = true then .flush w.placed else .evict w.placed, .write (accAddr x.tile w.placed) beats)
          ∧ beatsCarry beats fun b =>
            let i := 128 * w.placed + b
            BitVec.ofNat 8 (fieldAt (imageOf (x.rec_ (i / 12)).fields) (i % 12) 1))
      ∧ ((∀ w, s.cache.writeback = some w → 96 ≤ w.placed) → s.presents .sectorWriteback = none))
    ∧ ((s.bulk = none → s.presents .bulkMover = none)
      ∧ (∀ base parts lost step, s.bulk = some (.contextWrite base parts lost step true) → s.presents .bulkMover = none)
      ∧ (∀ base parts lost step, s.bulk = some (.contextWrite base parts lost step false) →
        ∃ beats, s.presents .bulkMover =
            some (.contextWrite, .write (base + BitVec.ofNat 32 (if step = 32 then 0 else 128 * step)) beats)
          ∧ beatsCarry beats fun b =>
            if step = 0 ∧ b < 4 then 0 else byteOf (parts[if step = 32 then 0 else step]?.getD 0) b)
      ∧ (∀ base placed ended failed parts, s.bulk = some (.contextRead base placed ended failed parts) →
        s.presents .bulkMover = if placed < 32 ∧ failed = false ∧ s.cmd.aborting = false then
          some (.contextRead placed, .read (base + BitVec.ofNat 32 (128 * placed)) 16) else none)
      ∧ (∀ job placed ended failed parts, s.bulk = some (.recordRead job placed ended failed parts) →
        s.presents .bulkMover = if placed < 96 then
          some (.recordRead placed, .read (accAddr job.tile placed) 16) else none)
      ∧ (∀ job plane placed ended failed, s.bulk = some (.planeWrite job plane placed ended failed) →
        (∀ x, s.dark.slot job.slot = some x → placed < 16 ∧ failed = false → ∃ beats, s.presents .bulkMover =
            some (.planeWrite placed, .write (x.base + BitVec.ofNat 32 (job.tile * 2048 + 128 * placed)) beats)
          ∧ beatsCarry beats (byteOf (plane[placed]?.getD 0)))
        ∧ (¬(placed < 16 ∧ failed = false) → s.presents .bulkMover = none))
      ∧ (∀ base image placed, s.bulk = some (.libraryWrite base image placed) →
        (placed = true → s.presents .bulkMover = none)
        ∧ (placed = false → ∃ beats, s.presents .bulkMover = some (.libraryWrite, .write (base + 4096) beats)
          ∧ beatsCarry beats (byteOf image)))
      ∧ (∀ base placed, s.bulk = some (.libraryRead base placed) → s.presents .bulkMover =
          if placed = true then none else some (.libraryRead, .read (base + 4096) 16)))
    ∧
    ((s.resetLow = true ∨ 8 ≤ s.arb.inFlight.length ∨ ∀ r, s.presents r = none) → exec .mLinkGrant s = .next s)
    ∧ (s.resetLow = false → s.arb.inFlight.length < 8 →
      ∀ (before after : List Requester) (r : Requester) (p : Purpose) (txn : Request),
        [.passThrough, .darkFetch, .sectorFill, .sectorWriteback, .bulkMover] = before ++ r :: after →
        s.presents r = some (p, txn) →
        ((s.arb.passCounts.of r = 16 ∧ ∀ q, q ∈ before → s.presents q = none ∨ s.arb.passCounts.of q ≠ 16)
          ∨ ((∀ q, s.presents q = none ∨ s.arb.passCounts.of q ≠ 16) ∧ ∀ q, q ∈ before → s.presents q = none)) →
        ∃ t, exec .mLinkGrant s = .next t
          ∧ t.arb.inFlight = s.arb.inFlight ++ [⟨p, txn⟩]
          ∧ (∀ q, t.arb.passCounts.of q =
              if q = r then 0 else if s.presents q = none then 0 else min 16 (s.arb.passCounts.of q + 1))
          ∧ t.hdr = s.hdr ∧ t.dark = s.dark ∧ t.rot = s.rot ∧ t.cmd = s.cmd ∧ t.rep = s.rep ∧ t.classes = s.classes
          ∧ t.answers = s.answers ∧ t.waiting = s.waiting ∧ t.cache.sectors = s.cache.sectors
          ∧ t.cache.touched = s.cache.touched ∧ t.planBase = s.planBase ∧ t.pending = s.pending
          ∧ s.advances t p)

/-- R50 to R53, R73 to R90: a dark fetch ends for a block of the capture burst in hand: it is noted, of slot a or of slot b, as
ended with its 64 bytes or in error. The burst then goes on (`handLeadsTo`). A block whose fetches have ended, one in error, is
discarded, counted once, and MEMORY_FAULT is raised (at once, also behind a block that waits or folds: log 11, DEDUCED). A
block whose fetches have ended without error folds once every block that landed before it has folded or been discarded, with
the dark values of its one slot or of its two, and the one behind it follows; behind a fold that waits for a fill or an
eviction it waits. After the last block the burst is answered OK. -/
def Obligations.DarkFetchEndsItsFetch : Prop :=
  ∀ (s : State) (index : Nat) (resp : Response) (data : BitVec 512) (row block : Nat) (second : Bool) (cap : Capture),
    s.flying index (.darkFetch row block second) → s.inHand = some (.capture cap) →
    let ended (f : Fetch) : Fetch := { f with state := if resp = .ok then .ended data else .failed }
    s.settlesFrom (.darkFetchEnd index resp data) { s.landed index with
      inHand := some (.capture { cap with blocks := cap.blocks.map fun b =>
        if b.row = row ∧ b.block = block then
          if second = true then { b with fetchB := b.fetchB.map ended } else { b with fetchA := b.fetchA.map ended }
        else b }) }

/-- R118, R119: a fill read ends: before the 96th it is noted and nothing else changes; at the 96th the sector is CLEAN
with the records read, or after an error fresh, the failure counted and the first fill-error tile noted; every other block, the
other sectors and the recency order stand. The access that waits is then made again (`settle`, log 17, DEDUCED): a block in
hand folds on from its waiting sample and the block behind it follows, and a result read goes on, or either waits for what is
next (`handLeadsTo`). -/
def Obligations.FillEndsAtItsLastRead : Prop :=
  ∀ (s : State) (index part : Nat) (resp : Response) (data : Chunk) (f : Fill) (x : Sector),
    s.flying index (.fill part) → s.cache.fill = some f → s.cache.sector f.sector = some x →
    let parts := if resp = .ok then Table.set 0 f.parts part data else f.parts
    let failed := f.failed || decide (resp = .error)
    (f.ended + 1 ≠ 96 →
      s.settlesFrom (.sectorFillEnd index resp data) { s.landed index with
        cache := { s.cache with fill := some { f with ended := f.ended + 1, failed := failed, parts := parts } } })
    ∧ (f.ended + 1 = 96 → ∃ u x', s.settlesFrom (.sectorFillEnd index resp data) u
        ∧ u = { s.landed index with cache := u.cache, rep := u.rep }
        ∧ u.cache = { s.cache with fill := none, sectors := u.cache.sectors, firstFillError := u.cache.firstFillError }
        ∧ u.cache.sector f.sector = some x' ∧ (∀ k, k ≠ f.sector → u.cache.sector k = s.cache.sector k)
        ∧ x' = { x with state := .clean, recs := x'.recs }
        ∧ (failed = false → (∀ pos, pos < 1024 → x'.rec_ pos = Rec.ofNat (imageOfParts 96 parts / 2 ^ (96 * pos)))
            ∧ u.rep = s.rep ∧ u.cache.firstFillError = s.cache.firstFillError)
        ∧ (failed = true → (∀ pos, x'.rec_ pos = x.fresh)
            ∧ u.rep = (raise .memoryFault (count .fillErrors 1 s)).rep
            ∧ u.cache.firstFillError = some (s.cache.firstFillError.getD f.tile)))

/-- R120 to R122: a write of an eviction writeback ends; at the 96th the sector becomes FREE, or after a first failure is
DIRTY again, marked, counted and most recent, or after a second is FREE with its tile lost, untouched and counted; every other
block, the other sectors and touched marks stand. The access that waits is then made again from the start (`settle`, log 17,
DEDUCED): with a sector FREE it is served or its fill begins, else the next victim is chosen; so a block in hand folds on from
its waiting sample and the block behind it follows, and a result read goes on (`handLeadsTo`). -/
def Obligations.EvictionEndsAtItsLastWrite : Prop :=
  ∀ (s : State) (index part : Nat) (resp : Response) (w : Writeback) (x : Sector),
    s.flying index (.evict part) → s.cache.writeback = some w → w.forFlush = false → s.cache.sector w.sector = some x →
    let failed := w.failed || decide (resp = .error)
    let out (v : State) := s.settlesFrom (.evictionWritebackEnd index resp) v
    let order := s.cache.recency.filter fun k => decide (k ≠ w.sector)
    (w.ended + 1 ≠ 96 →
      out { s.landed index with
        cache := { s.cache with writeback := some { w with ended := w.ended + 1, failed := failed } } })
    ∧ (w.ended + 1 = 96 →
      (failed = false → out { s.landed index with
        cache := { s.cache.setSector w.sector none with recency := order, writeback := none } })
      ∧ (failed = true → x.failedOnce = false → out { s.landed index with
        cache := { s.cache.setSector w.sector (some { x with state := .dirty, failedOnce := true }) with
          recency := w.sector :: order, writeback := none }
        rep := (raise .memoryFault (count .writebackFailures 1 s)).rep })
      ∧ (failed = true → x.failedOnce = true → out { s.landed index with
        cache := { s.cache.setSector w.sector none with
          recency := order, writeback := none, touched := Table.set false s.cache.touched x.tile false }
        rep := (raise .memoryFault (count .lostTiles 1 s)).rep }))

/-- R120 to R124, R164: a write of a flush writeback ends. Before the last it is noted. At the 96th without error the sector
is CLEAN, its place in the recency order kept; after a first failure it is written again, marked, counted and most recent;
after a second its tile is lost, untouched and counted. The flush then goes on to the next DIRTY sector by number, or ends and
the context write begins; a pending ABORT stops the command instead, and drops a fill in flight for a result read in hand (log
33, the model's choice). A request in hand then goes on (`settle`, log 17, DEDUCED; `handLeadsTo`); a tile lost so is lost also
to a result read in hand (log 42, the model's choice). (Most recent after a first failure is R121 and R109; R123 says that the
flush leaves the order: log 39, the model's choice.) -/
def Obligations.FlushEndsAfterItsLastSector : Prop :=
  ∀ (s : State) (index part : Nat) (resp : Response) (w : Writeback) (x : Sector) (fl : Flush),
    s.flying index (.flush part) → s.cache.writeback = some w → s.cache.sector w.sector = some x →
    w.forFlush = true → s.cache.flush = some fl →
    let u := s.landed index
    let failed := w.failed || decide (resp = .error)
    let goesOn (c : TileCache) (rep : ReportUnit) (lost : Bool) (v : State) :=
      (∀ j y, w.sector < j → j < 32 → c.sector j = some y → y.state = .dirty →
        (∀ k, w.sector < k → k < j → c.stateIs k .dirty = false) →
        v = { u with rep := rep, cache := { c.setSector j (some { y with state := .writing }) with
                flush := some ⟨j, lost⟩, writeback := some ⟨j, true, 0, 0, false⟩ } })
      ∧ ((∀ k, w.sector < k → k < 32 → c.stateIs k .dirty = false) →
        let e := { u with rep := rep, cache := { c with flush := none, writeback := none } }
        v = { e with bulk := some (.contextWrite s.cmd.snap.ckptBase e.contextParts lost 0 false) })
    let clean := s.cache.setSector w.sector (some { x with state := .clean, failedOnce := false })
    let marked := { s.cache.setSector w.sector (some { x with state := .writing, failedOnce := true }) with
      recency := w.sector :: s.cache.recency.filter fun k => decide (k ≠ w.sector)
      writeback := some ⟨w.sector, true, 0, 0, false⟩ }
    let lost := { s.cache.setSector w.sector none with
      recency := s.cache.recency.filter fun k => decide (k ≠ w.sector)
      touched := Table.set false s.cache.touched x.tile false }
    let onceRep := (raise .memoryFault (count .writebackFailures 1 s)).rep
    let lostRep := (raise .memoryFault (count .lostTiles 1 s)).rep
    let out (v : State) := s.settlesFrom (.flushWritebackEnd index resp) v
    (w.ended + 1 ≠ 96 →
      out { u with cache := { s.cache with writeback := some { w with ended := w.ended + 1, failed := failed } } })
    ∧ (w.ended + 1 = 96 → s.cmd.aborting = false → ∃ v, out v
        ∧ (failed = false → goesOn clean s.rep fl.lost v)
        ∧ (failed = true → x.failedOnce = false → v = { u with rep := onceRep, cache := marked })
        ∧ (failed = true → x.failedOnce = true → goesOn lost lostRep true v))
    ∧ (w.ended + 1 = 96 → s.cmd.aborting = true → ∃ v, out v
        ∧ State.stopsInto { u with rep :=
            if failed = false then s.rep else if x.failedOnce = false then onceRep else lostRep } v)

/-- R155, R157 to R159, R164: a write of the run context ends: the next is to be placed; after the 33rd END makes the run
ENDED and a CHECKPOINT is counted; an ERROR stops the write there with MEMORY_FAULT. After an automatic checkpoint, counted in
the same way, the header that it held is evaluated and its burst answered. A pending ABORT stops the command at the write's
end (a fill in flight is dropped: log 33, the model's choice). A carried request in hand stands, a result read or a capture
burst goes on where it can, and requests that wait are taken (`settlesFrom`; log 17, DEDUCED). -/
def Obligations.ContextWriteEnds : Prop :=
  ∀ (s : State) (index : Nat) (resp : Response) (base : BitVec 32) (parts : List Chunk) (lost : Bool) (step : Nat),
    s.flying index .contextWrite → s.bulk = some (.contextWrite base parts lost step true) →
    let faulted := if resp = .error then raise .memoryFault (s.landed index) else s.landed index
    let u := { faulted with bulk := none }
    let good := decide (resp = .ok) && !lost
    let o : CommandOutcome := if good then .done else .memoryFault
    let counted (v : State) := if good then raise .checkpointDone (count .checkpoints 1 v)
      else count .checkpointFailures 1 v
    let out (v : State) := s.settlesFrom (.contextWriteEnd index resp) v
    (s.cmd.aborting = true → ∃ v, out v ∧ faulted.stopsInto v)
    ∧ (s.cmd.aborting = false →
      (resp = .ok → step ≠ 32 →
        out { s.landed index with bulk := some (.contextWrite base parts lost (step + 1) false) })
      ∧ (resp = .error ∨ step = 32 →
        (s.cmd.saving = some .endRun → out ({ u with cmd := { s.cmd with saving := none, run := .ended } }.withOutcome o))
        ∧ (s.cmd.saving = some .checkpoint →
          out ((counted { u with cmd := { s.cmd with saving := none } }).withOutcome o))
        ∧ (s.inHand = some .header → s.cmd.saving = some .automatic →
          out ({ evaluateHeader (counted { u with cmd := { s.cmd with saving := none } }) with
            inHand := none }.answering .ok []))))

/-- R160 to R162, R164: a read of RESUME ends: it is noted while others remain; after an error RESUME ends with MEMORY_FAULT
once the reads placed have ended (log 22, the model's reading); after the last without error the record is refused with
BAD_CONTEXT where a check of R161 fails and with NO_DARK where the dark test does, and else restored, with DONE. A request in
hand then goes on (`settlesFrom`). A pending ABORT stops RESUME when the last read placed has ended (log 37, the model's reading; a fill in flight is dropped: log 33), with
nothing restored. (BAD_CONTEXT for a record whose geometry is not legal is log 34, the model's choice: R161 and R146 say so,
where R1 says BAD_PLAN; that t0 takes the record's bytes though its flag be clear is log 41, the model's choice.) -/
def Obligations.ContextReadEnds : Prop :=
  ∀ (s : State) (index part : Nat) (resp : Response) (data : Chunk) (base : BitVec 32) (placed ended : Nat) (failed : Bool)
    (parts : List (Nat × Chunk)),
    s.flying index (.contextRead part) → s.bulk = some (.contextRead base placed ended failed parts) →
    let failed' := failed || decide (resp = .error)
    let parts' := if resp = .ok then Table.set 0 parts part data else parts
    let noted := { s.landed index with bulk := some (.contextRead base placed (ended + 1) failed' parts') }
    let u := { s.landed index with bulk := none }
    let image := imageOfParts 32 parts'
    let f := Frozen.ofImage image 32
    let mode : RunMode := if fieldAt image 8 1 = 0 then .light else .dark
    let usable := fieldAt image 0 4 = 0x4E58434B ∧ fieldAt image 4 2 = 1
      ∧ ((List.range 2048).map fun i => fieldAt image (2 * i) 2).sum % 65536 = 0
      ∧ fieldAt image 8 1 ≤ 1 ∧ fieldAt image 56 4 = base.toNat ∧ f.usable s.planBase = true
    let out (v : State) := s.settlesFrom (.contextReadEnd index resp data) v
    (s.cmd.aborting = true →
      (ended + 1 ≠ placed → out noted)
      ∧ (ended + 1 = placed → ∃ v, out v
        ∧ State.stopsInto (if failed' = true then raise .memoryFault (s.landed index) else s.landed index) v))
    ∧ (s.cmd.aborting = false →
      ((failed' = true → ended + 1 ≠ placed) → (failed' = false → ended + 1 ≠ 32) →
        out noted)
      ∧ (failed' = true → ended + 1 = placed →
        out ((raise .memoryFault u).withOutcome .memoryFault))
      ∧ (failed' = false → ended + 1 = 32 →
        (¬usable → out (u.withOutcome .badContext))
        ∧ (usable → darkTest mode f s.dark = false →
          out (u.withOutcome .noDark))
        ∧ (usable → darkTest mode f s.dark = true →
          ∃ v, out (v.withOutcome .done) ∧ v = restoreRun image u
            ∧ v.cmd = { s.cmd with snap := clampParams f, mode := mode, run := .running }
            ∧ v.hdr = { s.hdr with
                folded := BitVec.ofNat 16 (fieldAt image 22 2), last := BitVec.ofNat 16 (fieldAt image 20 2),
                lock := .probe, badRun := 0, history := [], head := 0, count := 0, opened := none }
            ∧ v.rot = { s.rot with
                t0 := BitVec.ofNat 32 (fieldAt image 12 4), t0Set := decide (fieldAt image 9 1 ≠ 0) }
            ∧ v.dark.slots = s.dark.slots ∧ v.dark.tempSum = BitVec.ofNat 64 (fieldAt image 24 8)
            ∧ v.dark.erefSet = decide (fieldAt image 10 1 ≠ 0)
            ∧ (v.dark.erefSet = true → v.dark.eref = BitVec.ofNat 32 (fieldAt image 16 4))
            ∧ v.cache = { s.cache with touched := v.cache.touched, firstFillError := none }
            ∧ (∀ tile, v.cache.isTouched tile =
                (decide (tile < min (f.width.toNat / 32 * (f.height.toNat / 32)) 24576)
                  && decide (fieldAt image (1024 + tile / 8) 1 / 2 ^ (tile % 8) % 2 = 1)))
            ∧ v.rep = { s.rep with
                counters := v.rep.counters, hotMarked := BitVec.ofNat 32 (fieldAt image 208 4),
                uncovered := BitVec.ofNat 32 (fieldAt image 212 4), clampMask := clampMaskOf f }
            ∧ (∀ c, v.counter c = BitVec.ofNat 32 (fieldAt image (96 + 4 * c.index) 4))
            ∧ v.classes = s.classes ∧ v.arb = u.arb ∧ v.bulk = none)))

/-- R59, R60, R187: a record read of COMMIT_DARK ends: it is noted; after the 96th of a tile with an error its plane is all
hot marks, counted, and MEMORY_FAULT is raised; else each record gives its plane value, hot marked rises by the number of hot
ones and uncovered by the number of records with n 0. A request in hand then goes on (`settlesFrom`). So too with an ABORT pending: that the tile in hand then still has its
values formed and its plane writes begun is log 12, DEDUCED. That the last-commit values rise and the event is raised when the
tile's values are formed is log 21 (DEDUCED). -/
def Obligations.RecordReadEnds : Prop :=
  ∀ (s : State) (index part : Nat) (resp : Response) (data : Chunk) (job : Commit) (placed ended : Nat) (failed : Bool)
    (parts : List (Nat × Chunk)),
    s.flying index (.recordRead part) → s.bulk = some (.recordRead job placed ended failed parts) →
    let failed' := failed || decide (resp = .error)
    let parts' := if resp = .ok then Table.set 0 parts part data else parts
    let record (pos : Nat) := Rec.ofNat (imageOfParts 96 parts' / 2 ^ (96 * pos))
    let hot := (List.range 1024).countP fun pos =>
      decide ((record pos).n ≠ 0) && decide (planeValue job.hot (record pos) = 0xFFFF)
    let uncovered := (List.range 1024).countP fun pos => decide ((record pos).n = 0)
    let out (v : State) := s.settlesFrom (.commitRecordReadEnd index resp data) v
    (ended + 1 ≠ 96 →
      out { s.landed index with
        bulk := some (.recordRead job placed (ended + 1) failed' parts') })
    ∧ (ended + 1 = 96 → failed' = true →
      out (raise .memoryFault { s.landed index with
        bulk := some (.planeWrite job (List.replicate 16 (BitVec.allOnes 1024)) 0 0 false)
        rep := { s.rep with hotMarked := satAdd s.rep.hotMarked 1024 } }))
    ∧ (ended + 1 = 96 → failed' = false → ∃ plane,
      out { s.landed index with
        bulk := some (.planeWrite job plane 0 0 false)
        rep := { s.rep with hotMarked := satAdd s.rep.hotMarked hot, uncovered := satAdd s.rep.uncovered uncovered } }
      ∧ plane.length = 16
      ∧ ∀ pos, pos < 1024 →
        (plane[pos / 64]?.getD 0).extractLsb' (16 * (pos % 64)) 16 = planeValue job.hot (record pos))

/-- R58, R61 to R63, R164: a plane write ends: it is noted; after a tile's 16th the progress rises and the walk comes to the
next tile, read if touched and else written as 0 and counted uncovered, or, after the last, the slot is VALID with the mean
temperature and the library write begins; a pending ABORT stops the command with its tile. After an error the slot is empty and
MEMORY_FAULT raised at once, each later answer is noted, and when the last write placed has ended the command ends with
MEMORY_FAULT, or stops for a pending ABORT. A request in hand then goes on (`settlesFrom`). (That with an ABORT pending the tile's later writes are still placed is log 12, when
the slot is emptied log 29, that an untouched tile is counted at its start log 21, DEDUCED; outside s16 the temperature is a
free value, log 9, and a fill in flight at the stop is dropped, log 33, DESIGN CHOICE.) -/
def Obligations.PlaneWriteEnds : Prop :=
  ∀ (s : State) (index part : Nat) (job : Commit) (plane : List Chunk) (placed ended : Nat) (failed : Bool),
    s.flying index (.planeWrite part) → s.bulk = some (.planeWrite job plane placed ended failed) →
    (∀ resp, failed = true ∨ resp = .error →
      let u := if resp = .error then raise .memoryFault { s.landed index with dark := s.dark.setSlot job.slot none }
        else s.landed index
      (ended + 1 ≠ placed → s.settlesFrom (.planeWriteEnd index resp) { u with
        bulk := some (.planeWrite job plane placed (ended + 1) true) })
      ∧ (ended + 1 = placed → s.cmd.aborting = false →
        s.settlesFrom (.planeWriteEnd index resp) ({ u with bulk := none }.withOutcome .memoryFault))
      ∧ (ended + 1 = placed → s.cmd.aborting = true →
        ∃ v, s.settlesFrom (.planeWriteEnd index resp) v ∧ u.stopsInto v))
    ∧ (failed = false → ∀ x, s.dark.slot job.slot = some x →
      let done := { s.landed index with cmd := { s.cmd with progress := satAdd s.cmd.progress 1 } }
      let next : Commit := { job with tile := job.tile + 1 }
      (ended + 1 ≠ 16 →
        s.settlesFrom (.planeWriteEnd index .ok) { s.landed index with
          bulk := some (.planeWrite job plane placed (ended + 1) false) })
      ∧ (ended + 1 = 16 → s.cmd.aborting = true →
        ∃ v, s.settlesFrom (.planeWriteEnd index .ok) v ∧ done.stopsInto v)
      ∧ (s.cmd.aborting = false →
        (ended + 1 = 16 → job.tile + 1 < s.cmd.snap.width.toNat / 32 * (s.cmd.snap.height.toNat / 32) →
          s.settlesFrom (.planeWriteEnd index .ok)
            (if s.cache.isTouched (job.tile + 1) = true then
              { done with bulk := some (.recordRead next 0 0 false []) }
            else
              { done with rep := { s.rep with uncovered := satAdd s.rep.uncovered 1024 }
                          bulk := some (.planeWrite next (List.replicate 16 0) 0 0 false) }))
        ∧ (ended + 1 = 16 → s.cmd.snap.width.toNat / 32 * (s.cmd.snap.height.toNat / 32) ≤ job.tile + 1 →
          ∃ temperature : BitVec 16,
            (let valid : Slot := { x with building := false, eref := s.dark.eref, frames := s.hdr.folded,
                                          temperature := temperature }
             let dark := s.dark.setSlot job.slot (some valid)
             s.settlesFrom (.planeWriteEnd index .ok) { done with
              dark := dark
              bulk := some (.libraryWrite s.cmd.snap.ckptBase dark.libraryImage false) })
            ∧ (s.hdr.folded ≠ 0 → ∃ m : Int,
              2 * (s.dark.tempSum.toInt - m * s.hdr.folded.toNat).natAbs ≤ s.hdr.folded.toNat
              ∧ (2 * (s.dark.tempSum.toInt - m * s.hdr.folded.toNat).natAbs = s.hdr.folded.toNat → m % 2 = 0)
              ∧ (-32768 ≤ m → m ≤ 32767 → temperature.toInt = m)))))

/-- R62 to R67, R164: the library record write and read end: the outcome, MEMORY_FAULT after an ERROR, and after a good read
the four slots replaced from the record's entries. With an ABORT pending the command stops then, a VALID slot staying so and
the table as it stood. A request in hand then goes on (`settlesFrom`). (A fill in flight at the stop is dropped: log 33, the model's choice.) -/
def Obligations.LibraryAccessEnds : Prop :=
  ∀ (s : State) (index : Nat) (resp : Response) (data : Chunk) (base : BitVec 32),
    let u := { s.landed index with bulk := none }
    let faulted := (raise .memoryFault u).withOutcome .memoryFault
    let stopped := if resp = .ok then s.landed index else raise .memoryFault (s.landed index)
    (∀ image, s.flying index .libraryWrite → s.bulk = some (.libraryWrite base image true) →
      (s.cmd.aborting = false →
        s.settlesFrom (.libraryWriteEnd index resp) (if resp = .ok then u.withOutcome .done else faulted))
      ∧ (s.cmd.aborting = true → ∃ v, s.settlesFrom (.libraryWriteEnd index resp) v ∧ stopped.stopsInto v))
    ∧ (s.flying index .libraryRead → s.bulk = some (.libraryRead base true) →
      (s.cmd.aborting = true → ∃ v, s.settlesFrom (.libraryReadEnd index resp data) v ∧ stopped.stopsInto v)
      ∧ (s.cmd.aborting = false → ∃ slots, s.settlesFrom (.libraryReadEnd index resp data)
          (if resp = .ok then { u with dark := { s.dark with slots := slots } }.withOutcome .done else faulted)
        ∧ ∀ k, k < 4 → Table.get none slots k =
            if fieldAt data.toNat (32 * k) 1 = 2
                ∧ ((List.range 16).map fun i => fieldAt data.toNat (32 * k + 2 * i) 2).sum % 65536 = 0 then
              some ⟨false, BitVec.ofNat 16 (fieldAt data.toNat (32 * k + 2) 2),
                BitVec.ofNat 32 (fieldAt data.toNat (32 * k + 4) 4), BitVec.ofNat 16 (fieldAt data.toNat (32 * k + 8) 2),
                BitVec.ofNat 16 (fieldAt data.toNat (32 * k + 10) 2), BitVec.ofNat 16 (fieldAt data.toNat (32 * k + 12) 2),
                BitVec.ofNat 32 (fieldAt data.toNat (32 * k + 16) 4)⟩
            else none))

/-! ## Headlines -/

/-- R64, R66: the library record the part writes, read back, gives every VALID slot with its six fields and no other. -/
def Obligations.LibraryRecordReadsBack : Prop :=
  ∀ (d : DarkUnit) (k : Nat), k < 4 →
    Table.get none (slotsOfLibrary d.libraryImage.toNat) k =
      match d.slot k with
      | some x => if x.building = true then none else some x
      | none => none

/-- R154, R161, R162: the run context the part writes passes every check of RESUME but the dark test, and the restoration
from it gives back the snapshot, mode, t0, last sequence, folded count, dark bookkeeping, last-commit values and every
counter, with the lock in PROBE. (The reference exposure and t0 are compared only where their flags are set: logs 18, 41.) -/
def Obligations.RunContextReadsBack : Prop :=
  ∀ s u : State, s.cmd.snap.usable s.planBase = true → u.planBase = s.planBase →
    let image := imageOfParts 32 ((List.range 32).zip s.contextParts)
    let t := restoreRun image u
    contextUsable u.planBase s.cmd.snap.ckptBase image = true
    ∧ t.cmd.snap = clampParams s.cmd.snap ∧ t.cmd.mode = s.cmd.mode ∧ t.cmd.run = .running
    ∧ t.hdr.last = s.hdr.last ∧ t.hdr.folded = s.hdr.folded ∧ t.hdr.lock = .probe ∧ t.hdr.badRun = 0
    ∧ t.rot.t0Set = s.rot.t0Set ∧ (s.rot.t0Set = true → t.rot.t0 = s.rot.t0)
    ∧ t.dark.tempSum = s.dark.tempSum ∧ t.dark.erefSet = s.dark.erefSet
    ∧ (s.dark.erefSet = true → t.dark.eref = s.dark.eref)
    ∧ (∀ c, t.counter c = s.counter c) ∧ t.rep.hotMarked = s.rep.hotMarked ∧ t.rep.uncovered = s.rep.uncovered
    ∧ (Table.wf false s.cache.touched = true → ∀ tile, tile < s.cmd.snap.tiles →
        t.cache.isTouched tile = s.cache.isTouched tile)

/-- R165, R176, R178: no step brings more than 8 transactions in flight or a pass count above 16, or leaves a request that could
be taken waiting in front. -/
def Obligations.EveryStepKeepsTheLinkBounds : Prop :=
  ∀ s t : State, s.linkInv → step s = .next t → t.linkInv

/-- R1, R25, R33, R51, R150, R161: no step leaves a subframe open outside LOCKED, a bad-run count other than 0 outside LOCKED
or one above 2, a run or a save under way whose geometry is not legal, or a block in hand whose fetches have ended, some in
error.
(That such a block is discarded at once, even behind a block that still folds, is log 11, DEDUCED: R50 lets a block wait for
those before it.) -/
def Obligations.EveryStepKeepsTheLock : Prop :=
  ∀ s t : State, s.lockInv → step s = .next t → t.lockInv

/-- Log 28: every step keeps the tables in their one canonical form, so that equal contents are equal data: those of the
blocks, the records of every sector, and the parts read of a fill and of a Bulk Mover operation. -/
def Obligations.EveryStepKeepsTheTables : Prop :=
  ∀ s t : State, s.tablesInv → step s = .next t → t.tablesInv

/-- The state after the RESET line meets the three invariants. -/
def Obligations.ResetMeetsTheInvariants : Prop :=
  State.reset.linkInv ∧ State.reset.lockInv ∧ State.reset.tablesInv
end

