-- ==== Sys2Proof/Laws/CosSin.lean ====
section
/-! SUPPORT. Laws/CosSin.lean: how far the cosine and sine of an octant lie from the real ones (R97, log 7). -/

namespace Sys2Proof.Machine

open Finset

/-- The real nested series that `cosSeries` works out in units of 2^-160. -/
noncomputable def cosNested (z : ℝ) : Nat → Nat → ℝ
  | 0, _ => 1
  | n + 1, k => 1 - z * cosNested z n (k + 1) / ((2 * k - 1) * (2 * k))

/-- The real nested series that `sinSeries` works out in units of 2^-160. -/
noncomputable def sinNested (z : ℝ) : Nat → Nat → ℝ
  | 0, _ => 1
  | n + 1, k => 1 - z * sinNested z n (k + 1) / ((2 * k) * (2 * k + 1))

/-- One level of a nested series keeps an error of four units. -/
theorem nested_step {one z c d : Nat} {h : ℝ} (h1 : 0 < one) (hz : z ≤ one) (hc : c ≤ one) (hd : 2 ≤ d)
    (e : |(c : ℝ) / one - h| ≤ 4 / one) :
    |((one - z * c / one / d : Nat) : ℝ) / one - (1 - (z : ℝ) / one * h / d)| ≤ 4 / one := by
  have ho : (0 : ℝ) < one := by exact_mod_cast h1
  have hd' : (2 : ℝ) ≤ d := by exact_mod_cast hd
  have hd0 : (0 : ℝ) < d := by linarith
  rw [Nat.div_div_eq_div_mul]
  have hpos : 0 < one * d := Nat.mul_pos h1 (by omega)
  have ha : z * c / (one * d) ≤ one :=
    (Nat.div_le_div_left (Nat.le_mul_of_pos_right one (by omega)) h1).trans
      (Nat.div_le_of_le_mul (Nat.mul_le_mul hz hc))
  rw [Nat.cast_sub ha]
  set a := z * c / (one * d) with hadef
  have h2 : ((a : ℝ)) ≤ (z * c : ℝ) / (one * d) := by
    have := @Nat.cast_div_le ℝ _ _ _ (z * c) (one * d)
    push_cast at this; exact this
  have h3 : (z * c : ℝ) / (one * d) < a + 1 := by
    rw [div_lt_iff₀ (by positivity)]
    have h4 : ((z * c : Nat) : ℝ) < (((a + 1) * (one * d) : Nat) : ℝ) := by
      exact_mod_cast Nat.lt_mul_of_div_lt (Nat.lt_succ_self a) hpos
    push_cast at h4
    exact h4
  have hZ : (z : ℝ) / one ≤ 1 := by rw [div_le_one ho]; exact_mod_cast hz
  have hZ0 : 0 ≤ (z : ℝ) / one := by positivity
  have key : ((one : ℝ) - a) / one - (1 - (z : ℝ) / one * h / d)
      = ((z : ℝ) * c / (one * d) - a) / one - (z : ℝ) / one * ((c : ℝ) / one - h) / d := by
    field_simp; ring
  rw [key]
  have t1 : |((z : ℝ) * c / (one * d) - a) / one| ≤ 1 / one := by
    rw [abs_div, abs_of_pos ho]
    gcongr
    rw [abs_le]; constructor <;> linarith
  have t2 : |(z : ℝ) / one * ((c : ℝ) / one - h) / d| ≤ 2 / one := by
    rw [abs_div, abs_mul, abs_of_nonneg hZ0, abs_of_pos hd0, div_le_iff₀ hd0]
    have : (z : ℝ) / one * |(c : ℝ) / one - h| ≤ 1 * (4 / one) := mul_le_mul hZ e (abs_nonneg _) zero_le_one
    have : 2 / (one : ℝ) * 2 ≤ 2 / one * d := by gcongr
    have : 2 / (one : ℝ) * 2 = 1 * (4 / one) := by ring
    linarith
  have : |((z : ℝ) * c / (one * d) - a) / one - (z : ℝ) / one * ((c : ℝ) / one - h) / d| ≤ 1 / one + 2 / one :=
    (abs_sub _ _).trans (add_le_add t1 t2)
  have : 1 / (one : ℝ) + 2 / one ≤ 4 / one := by rw [← add_div]; gcongr; norm_num
  linarith

theorem oneScaled_pos : 0 < oneScaled := Nat.two_pow_pos 160

theorem cosSeries_le (z : Nat) : ∀ n k, cosSeries z n k ≤ oneScaled
  | 0, _ => le_refl _
  | _ + 1, _ => Nat.sub_le _ _

theorem sinSeries_le (z : Nat) : ∀ n k, sinSeries z n k ≤ oneScaled
  | 0, _ => le_refl _
  | _ + 1, _ => Nat.sub_le _ _

theorem cosSeries_near {z : Nat} (hz : z ≤ oneScaled) : ∀ n k, 1 ≤ k →
    |(cosSeries z n k : ℝ) / oneScaled - cosNested ((z : ℝ) / oneScaled) n k| ≤ 4 / oneScaled
  | 0, _, _ => by
    have : (oneScaled : ℝ) ≠ 0 := by exact_mod_cast oneScaled_pos.ne'
    simp only [cosSeries, cosNested, div_self this, sub_self, abs_zero]; positivity
  | n + 1, k, hk => by
    have e := nested_step (d := (2 * k - 1) * (2 * k)) oneScaled_pos hz (cosSeries_le z n (k + 1))
      (by obtain ⟨m, rfl⟩ := Nat.exists_eq_add_of_le hk; have : 2 * (1 + m) - 1 = 2 * m + 1 := by omega
          rw [this]; nlinarith) (cosSeries_near hz n (k + 1) (by omega))
    have hk' : ((2 * k - 1 : Nat) : ℝ) = 2 * k - 1 := by rw [Nat.cast_sub (by omega)]; push_cast; ring
    rw [Nat.cast_mul, hk'] at e
    push_cast at e
    exact e

theorem sinSeries_near {z : Nat} (hz : z ≤ oneScaled) : ∀ n k, 1 ≤ k →
    |(sinSeries z n k : ℝ) / oneScaled - sinNested ((z : ℝ) / oneScaled) n k| ≤ 4 / oneScaled
  | 0, _, _ => by
    have : (oneScaled : ℝ) ≠ 0 := by exact_mod_cast oneScaled_pos.ne'
    simp only [sinSeries, sinNested, div_self this, sub_self, abs_zero]; positivity
  | n + 1, k, hk => by
    have e := nested_step (d := (2 * k) * (2 * k + 1)) oneScaled_pos hz (sinSeries_le z n (k + 1))
      (by nlinarith) (sinSeries_near hz n (k + 1) (by omega))
    push_cast at e
    exact e

/-! ## The nested series are partial sums of the power series -/

theorem cosNested_eq_sum (z : ℝ) : ∀ n m, cosNested z n (m + 1) =
    ∑ j ∈ range (n + 1), (-z) ^ j * ((2 * m).factorial / (2 * m + 2 * j).factorial : ℝ)
  | 0, m => by
    simp [cosNested, div_self (by exact_mod_cast (Nat.factorial_pos (2 * m)).ne' : ((2 * m).factorial : ℝ) ≠ 0)]
  | n + 1, m => by
    rw [cosNested, cosNested_eq_sum z n (m + 1), sum_range_succ' _ (n + 1), mul_sum, sum_div]
    have h0 : ((2 * m).factorial : ℝ) ≠ 0 := by exact_mod_cast (Nat.factorial_pos _).ne'
    rw [show (-z) ^ 0 * (((2 * m).factorial : ℝ) / ((2 * m + 2 * 0).factorial : ℝ)) = 1 by simp [h0], sub_eq_neg_add,
      ← sum_neg_distrib]
    congr 1
    refine sum_congr rfl fun j _ => ?_
    rw [show 2 * m + 2 * (j + 1) = 2 * (m + 1) + 2 * j by ring, show 2 * (m + 1) = 2 * m + 1 + 1 by ring,
      Nat.factorial_succ, Nat.factorial_succ]
    push_cast
    have h1 : ((2 * m + 1 + 1 + 2 * j).factorial : ℝ) ≠ 0 := by exact_mod_cast (Nat.factorial_pos _).ne'
    have h2 : (2 * (m : ℝ) + 1) ≠ 0 := by positivity
    have h3 : (2 * ((m : ℝ) + 1) - 1) = 2 * m + 1 := by ring
    rw [h3]
    field_simp
    ring

theorem sinNested_eq_sum (z : ℝ) : ∀ n m, sinNested z n (m + 1) =
    ∑ j ∈ range (n + 1), (-z) ^ j * ((2 * m + 1).factorial / (2 * m + 1 + 2 * j).factorial : ℝ)
  | 0, m => by
    simp [sinNested, div_self (by exact_mod_cast (Nat.factorial_pos (2 * m + 1)).ne' : ((2 * m + 1).factorial : ℝ) ≠ 0)]
  | n + 1, m => by
    rw [sinNested, sinNested_eq_sum z n (m + 1), sum_range_succ' _ (n + 1), mul_sum, sum_div]
    have h0 : ((2 * m + 1).factorial : ℝ) ≠ 0 := by exact_mod_cast (Nat.factorial_pos _).ne'
    rw [show (-z) ^ 0 * (((2 * m + 1).factorial : ℝ) / ((2 * m + 1 + 2 * 0).factorial : ℝ)) = 1 by simp [h0],
      sub_eq_neg_add, ← sum_neg_distrib]
    congr 1
    refine sum_congr rfl fun j _ => ?_
    rw [show 2 * m + 1 + 2 * (j + 1) = 2 * (m + 1) + 1 + 2 * j by ring,
      show 2 * (m + 1) + 1 = 2 * m + 1 + 1 + 1 by ring, Nat.factorial_succ (2 * m + 1 + 1), Nat.factorial_succ (2 * m + 1)]
    push_cast
    have h1 : ((2 * m + 1 + 1 + 1 + 2 * j).factorial : ℝ) ≠ 0 := by exact_mod_cast (Nat.factorial_pos _).ne'
    field_simp
    ring

/-- The sum of the first 2n terms of exp(x i): cosine and sine parts. -/
theorem expSum_parts (x : ℝ) : ∀ n, ∑ m ∈ range (2 * n), ((x : ℂ) * Complex.I) ^ m / m.factorial =
    ((∑ j ∈ range n, (-(x ^ 2)) ^ j / (2 * j).factorial : ℝ) : ℂ)
      + ((∑ j ∈ range n, x * (-(x ^ 2)) ^ j / (2 * j + 1).factorial : ℝ) : ℂ) * Complex.I
  | 0 => by simp
  | n + 1 => by
    rw [show 2 * (n + 1) = 2 * n + 1 + 1 by ring, sum_range_succ, sum_range_succ, expSum_parts x n, sum_range_succ,
      sum_range_succ]
    have hp : ((x : ℂ) * Complex.I) ^ (2 * n) = ((-(x ^ 2)) ^ n : ℝ) := by
      rw [pow_mul, mul_pow, Complex.I_sq]; push_cast; ring
    rw [pow_succ _ (2 * n), hp]
    push_cast
    ring

theorem abs_le_norm_parts (a b : ℝ) : |a| ≤ ‖(a : ℂ) + (b : ℂ) * Complex.I‖ ∧ |b| ≤ ‖(a : ℂ) + (b : ℂ) * Complex.I‖ := by
  have h1 := Complex.abs_re_le_norm ((a : ℂ) + (b : ℂ) * Complex.I)
  have h2 := Complex.abs_im_le_norm ((a : ℂ) + (b : ℂ) * Complex.I)
  simp at h1 h2
  exact ⟨h1, h2⟩

/-- Cosine and sine within 2^-100 of the 21-term series, for an angle up to 1. -/
theorem cos_sin_near {x : ℝ} (h0 : 0 ≤ x) (h1 : x ≤ 1) :
    |Real.cos x - cosNested (x ^ 2) 20 1| ≤ 1 / 2 ^ 100 ∧ |Real.sin x - x * sinNested (x ^ 2) 20 1| ≤ 1 / 2 ^ 100 := by
  have hn : ‖(x : ℂ) * Complex.I‖ ≤ 1 := by simpa [abs_of_nonneg h0] using h1
  have b := Complex.exp_bound hn (n := 2 * 21) (by norm_num)
  rw [expSum_parts, Complex.exp_mul_I] at b
  have hb : ‖(x : ℂ) * Complex.I‖ ^ (2 * 21) * (((2 * 21 : ℕ).succ : ℝ) * (((2 * 21).factorial : ℕ) * (2 * 21 : ℕ) : ℝ)⁻¹)
      ≤ 1 / 2 ^ 100 := by
    have hp : ‖(x : ℂ) * Complex.I‖ ^ (2 * 21) ≤ 1 := pow_le_one₀ (norm_nonneg _) hn
    calc _ ≤ 1 * (((2 * 21 : ℕ).succ : ℝ) * (((2 * 21).factorial : ℕ) * (2 * 21 : ℕ) : ℝ)⁻¹) := by gcongr
      _ ≤ 1 / 2 ^ 100 := by norm_num [Nat.factorial]
  have b' := b.trans hb
  rw [← Complex.ofReal_cos, ← Complex.ofReal_sin] at b'
  set C := ∑ j ∈ range 21, (-(x ^ 2)) ^ j / ((2 * j).factorial : ℝ) with hC
  set S := ∑ j ∈ range 21, x * (-(x ^ 2)) ^ j / ((2 * j + 1).factorial : ℝ) with hS
  have e : (Real.cos x : ℂ) + (Real.sin x : ℂ) * Complex.I - ((C : ℂ) + (S : ℂ) * Complex.I)
      = ((Real.cos x - C : ℝ) : ℂ) + ((Real.sin x - S : ℝ) : ℂ) * Complex.I := by push_cast; ring
  rw [e] at b'
  have hc : cosNested (x ^ 2) 20 1 = C := by
    rw [show (1 : Nat) = 0 + 1 from rfl, cosNested_eq_sum]
    refine sum_congr rfl fun j _ => ?_
    simp [div_eq_mul_inv]
  have hs : x * sinNested (x ^ 2) 20 1 = S := by
    rw [show (1 : Nat) = 0 + 1 from rfl, sinNested_eq_sum, mul_sum]
    refine sum_congr rfl fun j _ => ?_
    rw [show 2 * 0 + 1 + 2 * j = 2 * j + 1 by ring]
    simp [div_eq_mul_inv, mul_assoc]
  rw [hc, hs]
  exact ⟨(abs_le_norm_parts _ _).1.trans b', (abs_le_norm_parts _ _).2.trans b'⟩

/-! ## The octant -/

theorem cosNested_bounds {z : ℝ} (h0 : 0 ≤ z) (h1 : z ≤ 1) : ∀ n k, 1 ≤ k → 0 ≤ cosNested z n k ∧ cosNested z n k ≤ 1
  | 0, _, _ => ⟨zero_le_one, le_refl _⟩
  | n + 1, k, hk => by
    obtain ⟨a, b⟩ := cosNested_bounds h0 h1 n (k + 1) (by omega)
    have hk' : (1 : ℝ) ≤ k := by exact_mod_cast hk
    have hd : (2 : ℝ) ≤ (2 * k - 1) * (2 * k) := by nlinarith
    have hp : 0 ≤ z * cosNested z n (k + 1) := mul_nonneg h0 a
    have hq : z * cosNested z n (k + 1) ≤ 1 := mul_le_one₀ h1 a b
    simp only [cosNested]
    refine ⟨?_, by linarith [div_nonneg hp (by linarith : (0 : ℝ) ≤ (2 * k - 1) * (2 * k))]⟩
    rw [sub_nonneg, div_le_one (by linarith)]; linarith

theorem sinNested_bounds {z : ℝ} (h0 : 0 ≤ z) (h1 : z ≤ 1) : ∀ n k, 1 ≤ k → 0 ≤ sinNested z n k ∧ sinNested z n k ≤ 1
  | 0, _, _ => ⟨zero_le_one, le_refl _⟩
  | n + 1, k, hk => by
    obtain ⟨a, b⟩ := sinNested_bounds h0 h1 n (k + 1) (by omega)
    have hk' : (1 : ℝ) ≤ k := by exact_mod_cast hk
    have hd : (2 : ℝ) ≤ (2 * k) * (2 * k + 1) := by nlinarith
    have hp : 0 ≤ z * sinNested z n (k + 1) := mul_nonneg h0 a
    have hq : z * sinNested z n (k + 1) ≤ 1 := mul_le_one₀ h1 a b
    simp only [sinNested]
    refine ⟨?_, by linarith [div_nonneg hp (by linarith : (0 : ℝ) ≤ (2 * k) * (2 * k + 1))]⟩
    rw [sub_nonneg, div_le_one (by linarith)]; linarith

/-- One level of a nested series spreads an error of its argument no further. -/
theorem nested_lipschitz {a b h g d : ℝ} (ha0 : 0 ≤ a) (ha : a ≤ 1) (hg0 : 0 ≤ g) (hg : g ≤ 1) (hd : 2 ≤ d)
    (e : |h - g| ≤ |a - b|) : |(1 - a * h / d) - (1 - b * g / d)| ≤ |a - b| := by
  have hd0 : 0 < d := by linarith
  rw [show (1 - a * h / d) - (1 - b * g / d) = -((a * (h - g) + g * (a - b)) / d) by field_simp; ring, abs_neg, abs_div,
    abs_of_pos hd0, div_le_iff₀ hd0]
  have h1 : |a * (h - g) + g * (a - b)| ≤ a * |h - g| + g * |a - b| := by
    refine (abs_add_le _ _).trans ?_
    rw [abs_mul, abs_mul, abs_of_nonneg ha0, abs_of_nonneg hg0]
  nlinarith [abs_nonneg (a - b), abs_nonneg (h - g)]

theorem cosNested_lipschitz {a b : ℝ} (ha0 : 0 ≤ a) (ha : a ≤ 1) (hb0 : 0 ≤ b) (hb : b ≤ 1) : ∀ n k, 1 ≤ k →
    |cosNested a n k - cosNested b n k| ≤ |a - b|
  | 0, _, _ => by simp [cosNested]
  | n + 1, k, hk => by
    have hk' : (1 : ℝ) ≤ k := by exact_mod_cast hk
    obtain ⟨g0, g1⟩ := cosNested_bounds hb0 hb n (k + 1) (by omega)
    exact nested_lipschitz ha0 ha g0 g1 (by nlinarith) (cosNested_lipschitz ha0 ha hb0 hb n (k + 1) (by omega))

theorem sinNested_lipschitz {a b : ℝ} (ha0 : 0 ≤ a) (ha : a ≤ 1) (hb0 : 0 ≤ b) (hb : b ≤ 1) : ∀ n k, 1 ≤ k →
    |sinNested a n k - sinNested b n k| ≤ |a - b|
  | 0, _, _ => by simp [sinNested]
  | n + 1, k, hk => by
    have hk' : (1 : ℝ) ≤ k := by exact_mod_cast hk
    obtain ⟨g0, g1⟩ := sinNested_bounds hb0 hb n (k + 1) (by omega)
    exact nested_lipschitz ha0 ha g0 g1 (by nlinarith) (sinNested_lipschitz ha0 ha hb0 hb n (k + 1) (by omega))

/-- A quotient of naturals rounded down, as a real number. -/
theorem div_near (n d : Nat) (hd : 0 < d) : |((n / d : Nat) : ℝ) - n / d| ≤ 1 := by
  have h1 : ((n / d : Nat) : ℝ) ≤ n / d := Nat.cast_div_le
  have h2 : (n : ℝ) / d < ((n / d : Nat) : ℝ) + 1 := by
    rw [div_lt_iff₀ (by exact_mod_cast hd)]
    exact_mod_cast Nat.lt_mul_of_div_lt (Nat.lt_succ_self _) hd
  rw [abs_le]; constructor <;> linarith

theorem roundScaled_near (v : Nat) : |(roundScaled v : ℝ) - v / 2 ^ 130| ≤ 1 / 2 := by
  have h1 : (roundScaled v) * 2 ^ 130 ≤ v + 2 ^ 129 := Nat.div_mul_le_self _ _
  have h2 : v + 2 ^ 129 < (roundScaled v + 1) * 2 ^ 130 := Nat.lt_mul_of_div_lt (Nat.lt_succ_self _) (by norm_num)
  have h1' : (roundScaled v : ℝ) * 2 ^ 130 ≤ v + 2 ^ 129 := by exact_mod_cast h1
  have h2' : (v : ℝ) + 2 ^ 129 < (roundScaled v + 1) * 2 ^ 130 := by exact_mod_cast h2
  have lo : (roundScaled v : ℝ) - 1 / 2 ≤ v / 2 ^ 130 := by
    rw [le_div_iff₀ (by positivity)]; norm_num at h1' ⊢; linarith
  have hi : (v : ℝ) / 2 ^ 130 ≤ roundScaled v + 1 / 2 := by
    rw [div_le_iff₀ (by positivity)]; norm_num at h2' ⊢; linarith
  rw [abs_le]
  constructor <;> linarith

theorem piScaled_near : |(piScaled : ℝ) / 2 ^ 160 - Real.pi| ≤ 1 / 2 ^ 60 := by
  have h1 := Real.pi_gt_d20
  have h2 := Real.pi_lt_d20
  rw [abs_le, piScaled]
  constructor <;> norm_num at * <;> linarith

/-- Up to an eighth of a turn the held cosine and sine lie within half a multiple of 2^-30, and 2^-20 of one, of the true
ones (R97 gives the half: log 7). -/
theorem octantCosSin_near (r : Nat) (hr : r ≤ 2 ^ 37) :
    |((octantCosSin r).1 : ℝ) - 2 ^ 30 * Real.cos (2 * Real.pi * r / 2 ^ 40)| ≤ 1 / 2 + 1 / 2 ^ 20
      ∧ |((octantCosSin r).2 : ℝ) - 2 ^ 30 * Real.sin (2 * Real.pi * r / 2 ^ 40)| ≤ 1 / 2 + 1 / 2 ^ 20 := by
  have hO : (oneScaled : ℝ) = 2 ^ 160 := by norm_num [oneScaled]
  set x := piScaled * r / 2 ^ 39 with hx
  set X : ℝ := x / 2 ^ 160 with hX
  set z := x * x / oneScaled with hz
  have hxle : x ≤ oneScaled := by
    refine Nat.div_le_of_le_mul ((Nat.mul_le_mul_left piScaled hr).trans (by norm_num [piScaled, oneScaled]))
  have hzle : z ≤ oneScaled := Nat.div_le_of_le_mul (Nat.mul_le_mul hxle hxle)
  have hX0 : 0 ≤ X := by positivity
  have hX1 : X ≤ 1 := by rw [hX, div_le_one (by positivity), ← hO]; exact_mod_cast hxle
  have hr' : (r : ℝ) ≤ 2 ^ 37 := by exact_mod_cast hr
  have hang : |X - 2 * Real.pi * r / 2 ^ 40| ≤ 1 / 2 ^ 60 := by
    have h1 : |(x : ℝ) - piScaled * r / 2 ^ 39| ≤ 1 := by
      have h := div_near (piScaled * r) (2 ^ 39) (by norm_num)
      rw [← hx] at h
      norm_num at h ⊢
      exact h
    have h2 := piScaled_near
    have e : X - 2 * Real.pi * r / 2 ^ 40 = ((x : ℝ) - piScaled * r / 2 ^ 39) / 2 ^ 160
        + ((piScaled : ℝ) / 2 ^ 160 - Real.pi) * (r / 2 ^ 39) := by rw [hX]; ring
    rw [e]
    refine (abs_add_le _ _).trans ?_
    have h3 : |((x : ℝ) - piScaled * r / 2 ^ 39) / 2 ^ 160| ≤ 1 / 2 ^ 160 := by
      rw [abs_div, abs_of_pos (by positivity : (0 : ℝ) < 2 ^ 160)]; gcongr
    have h4 : |((piScaled : ℝ) / 2 ^ 160 - Real.pi) * (r / 2 ^ 39)| ≤ 1 / 2 ^ 60 * (1 / 4) := by
      rw [abs_mul, abs_of_nonneg (by positivity : (0 : ℝ) ≤ r / 2 ^ 39)]
      refine mul_le_mul h2 ?_ (by positivity) (by positivity)
      rw [div_le_iff₀ (by positivity)]; linarith
    refine (add_le_add h3 h4).trans (by norm_num)
  have hZ : |(z : ℝ) / 2 ^ 160 - X ^ 2| ≤ 1 / 2 ^ 160 := by
    have h1 := div_near (x * x) oneScaled oneScaled_pos
    rw [← hz, hO] at h1
    push_cast at h1
    rw [show (z : ℝ) / 2 ^ 160 - X ^ 2 = ((z : ℝ) - x * x / 2 ^ 160) / 2 ^ 160 by rw [hX]; ring, abs_div,
      abs_of_pos (by positivity : (0 : ℝ) < 2 ^ 160)]
    gcongr
  have hZ0 : 0 ≤ (z : ℝ) / 2 ^ 160 := by positivity
  have hZ1 : (z : ℝ) / 2 ^ 160 ≤ 1 := by rw [div_le_one (by positivity), ← hO]; exact_mod_cast hzle
  have hX20 : 0 ≤ X ^ 2 := by positivity
  have hX21 : X ^ 2 ≤ 1 := pow_le_one₀ hX0 hX1
  obtain ⟨c1, s1⟩ := cos_sin_near hX0 hX1
  constructor
  · have a := cosSeries_near hzle 20 1 (le_refl _)
    rw [hO] at a
    have b := (cosNested_lipschitz hZ0 hZ1 hX20 hX21 20 1 (le_refl _)).trans hZ
    have c := (Real.abs_cos_sub_cos_le X (2 * Real.pi * r / 2 ^ 40)).trans hang
    have d := roundScaled_near (cosSeries z 20 1)
    have e : (octantCosSin r).1 = roundScaled (cosSeries z 20 1) := rfl
    rw [e]
    have f : (cosSeries z 20 1 : ℝ) / 2 ^ 130 = 2 ^ 30 * ((cosSeries z 20 1 : ℝ) / 2 ^ 160) := by ring
    rw [f] at d
    rw [abs_le] at a b c d c1 ⊢
    constructor <;> norm_num at a b c d c1 ⊢ <;> linarith
  · have a := sinSeries_near hzle 20 1 (le_refl _)
    rw [hO] at a
    have b := (sinNested_lipschitz hZ0 hZ1 hX20 hX21 20 1 (le_refl _)).trans hZ
    have c := (Real.abs_sin_sub_sin_le X (2 * Real.pi * r / 2 ^ 40)).trans hang
    have d := roundScaled_near (x * sinSeries z 20 1 / oneScaled)
    have g := div_near (x * sinSeries z 20 1) oneScaled oneScaled_pos
    rw [hO] at g
    push_cast at g
    have e : (octantCosSin r).2 = roundScaled (x * sinSeries z 20 1 / oneScaled) := rfl
    rw [e]
    set w := x * sinSeries z 20 1 / oneScaled
    have f : (w : ℝ) / 2 ^ 130 = 2 ^ 30 * ((w : ℝ) / 2 ^ 160) := by ring
    rw [f] at d
    have g' : |(w : ℝ) / 2 ^ 160 - X * ((sinSeries z 20 1 : ℝ) / 2 ^ 160)| ≤ 1 / 2 ^ 160 := by
      rw [show (w : ℝ) / 2 ^ 160 - X * ((sinSeries z 20 1 : ℝ) / 2 ^ 160)
        = ((w : ℝ) - x * (sinSeries z 20 1) / 2 ^ 160) / 2 ^ 160 by rw [hX]; ring, abs_div,
        abs_of_pos (by positivity : (0 : ℝ) < 2 ^ 160)]
      gcongr
    have m : |X * ((sinSeries z 20 1 : ℝ) / 2 ^ 160) - X * sinNested (X ^ 2) 20 1| ≤ 5 / 2 ^ 160 := by
      rw [← mul_sub, abs_mul, abs_of_nonneg hX0]
      have t : |(sinSeries z 20 1 : ℝ) / 2 ^ 160 - sinNested (X ^ 2) 20 1| ≤ 4 / 2 ^ 160 + 1 / 2 ^ 160 :=
        (abs_sub_le _ (sinNested ((z : ℝ) / 2 ^ 160) 20 1) _).trans (add_le_add a b)
      calc X * _ ≤ 1 * (4 / 2 ^ 160 + 1 / 2 ^ 160) := mul_le_mul hX1 t (abs_nonneg _) zero_le_one
        _ = 5 / 2 ^ 160 := by ring
    rw [abs_le] at g' m c d s1 ⊢
    constructor <;> norm_num at g' m c d s1 ⊢ <;> linarith

end Sys2Proof.Machine
end

