-- ==== Sys2Proof/Laws/State.lean ====
section
/-! SUPPORT. Laws/State.lean: what each update of one block of State leaves in every field. -/

namespace Sys2Proof.Machine

@[simp] theorem State.setResetLow_resetLow (s : State) (x : Bool) : (s.setResetLow x).resetLow = x := rfl
@[simp] theorem State.setResetLow_planBase (s : State) (x : Bool) : (s.setResetLow x).planBase = s.planBase := rfl
@[simp] theorem State.setResetLow_inHand (s : State) (x : Bool) : (s.setResetLow x).inHand = s.inHand := rfl
@[simp] theorem State.setResetLow_waiting (s : State) (x : Bool) : (s.setResetLow x).waiting = s.waiting := rfl
@[simp] theorem State.setResetLow_answers (s : State) (x : Bool) : (s.setResetLow x).answers = s.answers := rfl
@[simp] theorem State.setResetLow_hdr (s : State) (x : Bool) : (s.setResetLow x).hdr = s.hdr := rfl
@[simp] theorem State.setResetLow_dark (s : State) (x : Bool) : (s.setResetLow x).dark = s.dark := rfl
@[simp] theorem State.setResetLow_rot (s : State) (x : Bool) : (s.setResetLow x).rot = s.rot := rfl
@[simp] theorem State.setResetLow_cache (s : State) (x : Bool) : (s.setResetLow x).cache = s.cache := rfl
@[simp] theorem State.setResetLow_cmd (s : State) (x : Bool) : (s.setResetLow x).cmd = s.cmd := rfl
@[simp] theorem State.setResetLow_rep (s : State) (x : Bool) : (s.setResetLow x).rep = s.rep := rfl
@[simp] theorem State.setResetLow_arb (s : State) (x : Bool) : (s.setResetLow x).arb = s.arb := rfl
@[simp] theorem State.setResetLow_bulk (s : State) (x : Bool) : (s.setResetLow x).bulk = s.bulk := rfl
@[simp] theorem State.setResetLow_classes (s : State) (x : Bool) : (s.setResetLow x).classes = s.classes := rfl
@[simp] theorem State.setResetLow_pending (s : State) (x : Bool) : (s.setResetLow x).pending = s.pending := rfl
@[simp] theorem State.setPlanBase_resetLow (s : State) (x : BitVec 32) : (s.setPlanBase x).resetLow = s.resetLow := rfl
@[simp] theorem State.setPlanBase_planBase (s : State) (x : BitVec 32) : (s.setPlanBase x).planBase = x := rfl
@[simp] theorem State.setPlanBase_inHand (s : State) (x : BitVec 32) : (s.setPlanBase x).inHand = s.inHand := rfl
@[simp] theorem State.setPlanBase_waiting (s : State) (x : BitVec 32) : (s.setPlanBase x).waiting = s.waiting := rfl
@[simp] theorem State.setPlanBase_answers (s : State) (x : BitVec 32) : (s.setPlanBase x).answers = s.answers := rfl
@[simp] theorem State.setPlanBase_hdr (s : State) (x : BitVec 32) : (s.setPlanBase x).hdr = s.hdr := rfl
@[simp] theorem State.setPlanBase_dark (s : State) (x : BitVec 32) : (s.setPlanBase x).dark = s.dark := rfl
@[simp] theorem State.setPlanBase_rot (s : State) (x : BitVec 32) : (s.setPlanBase x).rot = s.rot := rfl
@[simp] theorem State.setPlanBase_cache (s : State) (x : BitVec 32) : (s.setPlanBase x).cache = s.cache := rfl
@[simp] theorem State.setPlanBase_cmd (s : State) (x : BitVec 32) : (s.setPlanBase x).cmd = s.cmd := rfl
@[simp] theorem State.setPlanBase_rep (s : State) (x : BitVec 32) : (s.setPlanBase x).rep = s.rep := rfl
@[simp] theorem State.setPlanBase_arb (s : State) (x : BitVec 32) : (s.setPlanBase x).arb = s.arb := rfl
@[simp] theorem State.setPlanBase_bulk (s : State) (x : BitVec 32) : (s.setPlanBase x).bulk = s.bulk := rfl
@[simp] theorem State.setPlanBase_classes (s : State) (x : BitVec 32) : (s.setPlanBase x).classes = s.classes := rfl
@[simp] theorem State.setPlanBase_pending (s : State) (x : BitVec 32) : (s.setPlanBase x).pending = s.pending := rfl
@[simp] theorem State.setInHand_resetLow (s : State) (x : Option InHand) : (s.setInHand x).resetLow = s.resetLow := rfl
@[simp] theorem State.setInHand_planBase (s : State) (x : Option InHand) : (s.setInHand x).planBase = s.planBase := rfl
@[simp] theorem State.setInHand_inHand (s : State) (x : Option InHand) : (s.setInHand x).inHand = x := rfl
@[simp] theorem State.setInHand_waiting (s : State) (x : Option InHand) : (s.setInHand x).waiting = s.waiting := rfl
@[simp] theorem State.setInHand_answers (s : State) (x : Option InHand) : (s.setInHand x).answers = s.answers := rfl
@[simp] theorem State.setInHand_hdr (s : State) (x : Option InHand) : (s.setInHand x).hdr = s.hdr := rfl
@[simp] theorem State.setInHand_dark (s : State) (x : Option InHand) : (s.setInHand x).dark = s.dark := rfl
@[simp] theorem State.setInHand_rot (s : State) (x : Option InHand) : (s.setInHand x).rot = s.rot := rfl
@[simp] theorem State.setInHand_cache (s : State) (x : Option InHand) : (s.setInHand x).cache = s.cache := rfl
@[simp] theorem State.setInHand_cmd (s : State) (x : Option InHand) : (s.setInHand x).cmd = s.cmd := rfl
@[simp] theorem State.setInHand_rep (s : State) (x : Option InHand) : (s.setInHand x).rep = s.rep := rfl
@[simp] theorem State.setInHand_arb (s : State) (x : Option InHand) : (s.setInHand x).arb = s.arb := rfl
@[simp] theorem State.setInHand_bulk (s : State) (x : Option InHand) : (s.setInHand x).bulk = s.bulk := rfl
@[simp] theorem State.setInHand_classes (s : State) (x : Option InHand) : (s.setInHand x).classes = s.classes := rfl
@[simp] theorem State.setInHand_pending (s : State) (x : Option InHand) : (s.setInHand x).pending = s.pending := rfl
@[simp] theorem State.setWaiting_resetLow (s : State) (x : List Request) : (s.setWaiting x).resetLow = s.resetLow := rfl
@[simp] theorem State.setWaiting_planBase (s : State) (x : List Request) : (s.setWaiting x).planBase = s.planBase := rfl
@[simp] theorem State.setWaiting_inHand (s : State) (x : List Request) : (s.setWaiting x).inHand = s.inHand := rfl
@[simp] theorem State.setWaiting_waiting (s : State) (x : List Request) : (s.setWaiting x).waiting = x := rfl
@[simp] theorem State.setWaiting_answers (s : State) (x : List Request) : (s.setWaiting x).answers = s.answers := rfl
@[simp] theorem State.setWaiting_hdr (s : State) (x : List Request) : (s.setWaiting x).hdr = s.hdr := rfl
@[simp] theorem State.setWaiting_dark (s : State) (x : List Request) : (s.setWaiting x).dark = s.dark := rfl
@[simp] theorem State.setWaiting_rot (s : State) (x : List Request) : (s.setWaiting x).rot = s.rot := rfl
@[simp] theorem State.setWaiting_cache (s : State) (x : List Request) : (s.setWaiting x).cache = s.cache := rfl
@[simp] theorem State.setWaiting_cmd (s : State) (x : List Request) : (s.setWaiting x).cmd = s.cmd := rfl
@[simp] theorem State.setWaiting_rep (s : State) (x : List Request) : (s.setWaiting x).rep = s.rep := rfl
@[simp] theorem State.setWaiting_arb (s : State) (x : List Request) : (s.setWaiting x).arb = s.arb := rfl
@[simp] theorem State.setWaiting_bulk (s : State) (x : List Request) : (s.setWaiting x).bulk = s.bulk := rfl
@[simp] theorem State.setWaiting_classes (s : State) (x : List Request) : (s.setWaiting x).classes = s.classes := rfl
@[simp] theorem State.setWaiting_pending (s : State) (x : List Request) : (s.setWaiting x).pending = s.pending := rfl
@[simp] theorem State.setAnswers_resetLow (s : State) (x : List Answer) : (s.setAnswers x).resetLow = s.resetLow := rfl
@[simp] theorem State.setAnswers_planBase (s : State) (x : List Answer) : (s.setAnswers x).planBase = s.planBase := rfl
@[simp] theorem State.setAnswers_inHand (s : State) (x : List Answer) : (s.setAnswers x).inHand = s.inHand := rfl
@[simp] theorem State.setAnswers_waiting (s : State) (x : List Answer) : (s.setAnswers x).waiting = s.waiting := rfl
@[simp] theorem State.setAnswers_answers (s : State) (x : List Answer) : (s.setAnswers x).answers = x := rfl
@[simp] theorem State.setAnswers_hdr (s : State) (x : List Answer) : (s.setAnswers x).hdr = s.hdr := rfl
@[simp] theorem State.setAnswers_dark (s : State) (x : List Answer) : (s.setAnswers x).dark = s.dark := rfl
@[simp] theorem State.setAnswers_rot (s : State) (x : List Answer) : (s.setAnswers x).rot = s.rot := rfl
@[simp] theorem State.setAnswers_cache (s : State) (x : List Answer) : (s.setAnswers x).cache = s.cache := rfl
@[simp] theorem State.setAnswers_cmd (s : State) (x : List Answer) : (s.setAnswers x).cmd = s.cmd := rfl
@[simp] theorem State.setAnswers_rep (s : State) (x : List Answer) : (s.setAnswers x).rep = s.rep := rfl
@[simp] theorem State.setAnswers_arb (s : State) (x : List Answer) : (s.setAnswers x).arb = s.arb := rfl
@[simp] theorem State.setAnswers_bulk (s : State) (x : List Answer) : (s.setAnswers x).bulk = s.bulk := rfl
@[simp] theorem State.setAnswers_classes (s : State) (x : List Answer) : (s.setAnswers x).classes = s.classes := rfl
@[simp] theorem State.setAnswers_pending (s : State) (x : List Answer) : (s.setAnswers x).pending = s.pending := rfl
@[simp] theorem State.setHdr_resetLow (s : State) (x : HeaderUnit) : (s.setHdr x).resetLow = s.resetLow := rfl
@[simp] theorem State.setHdr_planBase (s : State) (x : HeaderUnit) : (s.setHdr x).planBase = s.planBase := rfl
@[simp] theorem State.setHdr_inHand (s : State) (x : HeaderUnit) : (s.setHdr x).inHand = s.inHand := rfl
@[simp] theorem State.setHdr_waiting (s : State) (x : HeaderUnit) : (s.setHdr x).waiting = s.waiting := rfl
@[simp] theorem State.setHdr_answers (s : State) (x : HeaderUnit) : (s.setHdr x).answers = s.answers := rfl
@[simp] theorem State.setHdr_hdr (s : State) (x : HeaderUnit) : (s.setHdr x).hdr = x := rfl
@[simp] theorem State.setHdr_dark (s : State) (x : HeaderUnit) : (s.setHdr x).dark = s.dark := rfl
@[simp] theorem State.setHdr_rot (s : State) (x : HeaderUnit) : (s.setHdr x).rot = s.rot := rfl
@[simp] theorem State.setHdr_cache (s : State) (x : HeaderUnit) : (s.setHdr x).cache = s.cache := rfl
@[simp] theorem State.setHdr_cmd (s : State) (x : HeaderUnit) : (s.setHdr x).cmd = s.cmd := rfl
@[simp] theorem State.setHdr_rep (s : State) (x : HeaderUnit) : (s.setHdr x).rep = s.rep := rfl
@[simp] theorem State.setHdr_arb (s : State) (x : HeaderUnit) : (s.setHdr x).arb = s.arb := rfl
@[simp] theorem State.setHdr_bulk (s : State) (x : HeaderUnit) : (s.setHdr x).bulk = s.bulk := rfl
@[simp] theorem State.setHdr_classes (s : State) (x : HeaderUnit) : (s.setHdr x).classes = s.classes := rfl
@[simp] theorem State.setHdr_pending (s : State) (x : HeaderUnit) : (s.setHdr x).pending = s.pending := rfl
@[simp] theorem State.setDark_resetLow (s : State) (x : DarkUnit) : (s.setDark x).resetLow = s.resetLow := rfl
@[simp] theorem State.setDark_planBase (s : State) (x : DarkUnit) : (s.setDark x).planBase = s.planBase := rfl
@[simp] theorem State.setDark_inHand (s : State) (x : DarkUnit) : (s.setDark x).inHand = s.inHand := rfl
@[simp] theorem State.setDark_waiting (s : State) (x : DarkUnit) : (s.setDark x).waiting = s.waiting := rfl
@[simp] theorem State.setDark_answers (s : State) (x : DarkUnit) : (s.setDark x).answers = s.answers := rfl
@[simp] theorem State.setDark_hdr (s : State) (x : DarkUnit) : (s.setDark x).hdr = s.hdr := rfl
@[simp] theorem State.setDark_dark (s : State) (x : DarkUnit) : (s.setDark x).dark = x := rfl
@[simp] theorem State.setDark_rot (s : State) (x : DarkUnit) : (s.setDark x).rot = s.rot := rfl
@[simp] theorem State.setDark_cache (s : State) (x : DarkUnit) : (s.setDark x).cache = s.cache := rfl
@[simp] theorem State.setDark_cmd (s : State) (x : DarkUnit) : (s.setDark x).cmd = s.cmd := rfl
@[simp] theorem State.setDark_rep (s : State) (x : DarkUnit) : (s.setDark x).rep = s.rep := rfl
@[simp] theorem State.setDark_arb (s : State) (x : DarkUnit) : (s.setDark x).arb = s.arb := rfl
@[simp] theorem State.setDark_bulk (s : State) (x : DarkUnit) : (s.setDark x).bulk = s.bulk := rfl
@[simp] theorem State.setDark_classes (s : State) (x : DarkUnit) : (s.setDark x).classes = s.classes := rfl
@[simp] theorem State.setDark_pending (s : State) (x : DarkUnit) : (s.setDark x).pending = s.pending := rfl
@[simp] theorem State.setRot_resetLow (s : State) (x : RotationUnit) : (s.setRot x).resetLow = s.resetLow := rfl
@[simp] theorem State.setRot_planBase (s : State) (x : RotationUnit) : (s.setRot x).planBase = s.planBase := rfl
@[simp] theorem State.setRot_inHand (s : State) (x : RotationUnit) : (s.setRot x).inHand = s.inHand := rfl
@[simp] theorem State.setRot_waiting (s : State) (x : RotationUnit) : (s.setRot x).waiting = s.waiting := rfl
@[simp] theorem State.setRot_answers (s : State) (x : RotationUnit) : (s.setRot x).answers = s.answers := rfl
@[simp] theorem State.setRot_hdr (s : State) (x : RotationUnit) : (s.setRot x).hdr = s.hdr := rfl
@[simp] theorem State.setRot_dark (s : State) (x : RotationUnit) : (s.setRot x).dark = s.dark := rfl
@[simp] theorem State.setRot_rot (s : State) (x : RotationUnit) : (s.setRot x).rot = x := rfl
@[simp] theorem State.setRot_cache (s : State) (x : RotationUnit) : (s.setRot x).cache = s.cache := rfl
@[simp] theorem State.setRot_cmd (s : State) (x : RotationUnit) : (s.setRot x).cmd = s.cmd := rfl
@[simp] theorem State.setRot_rep (s : State) (x : RotationUnit) : (s.setRot x).rep = s.rep := rfl
@[simp] theorem State.setRot_arb (s : State) (x : RotationUnit) : (s.setRot x).arb = s.arb := rfl
@[simp] theorem State.setRot_bulk (s : State) (x : RotationUnit) : (s.setRot x).bulk = s.bulk := rfl
@[simp] theorem State.setRot_classes (s : State) (x : RotationUnit) : (s.setRot x).classes = s.classes := rfl
@[simp] theorem State.setRot_pending (s : State) (x : RotationUnit) : (s.setRot x).pending = s.pending := rfl
@[simp] theorem State.setCache_resetLow (s : State) (x : TileCache) : (s.setCache x).resetLow = s.resetLow := rfl
@[simp] theorem State.setCache_planBase (s : State) (x : TileCache) : (s.setCache x).planBase = s.planBase := rfl
@[simp] theorem State.setCache_inHand (s : State) (x : TileCache) : (s.setCache x).inHand = s.inHand := rfl
@[simp] theorem State.setCache_waiting (s : State) (x : TileCache) : (s.setCache x).waiting = s.waiting := rfl
@[simp] theorem State.setCache_answers (s : State) (x : TileCache) : (s.setCache x).answers = s.answers := rfl
@[simp] theorem State.setCache_hdr (s : State) (x : TileCache) : (s.setCache x).hdr = s.hdr := rfl
@[simp] theorem State.setCache_dark (s : State) (x : TileCache) : (s.setCache x).dark = s.dark := rfl
@[simp] theorem State.setCache_rot (s : State) (x : TileCache) : (s.setCache x).rot = s.rot := rfl
@[simp] theorem State.setCache_cache (s : State) (x : TileCache) : (s.setCache x).cache = x := rfl
@[simp] theorem State.setCache_cmd (s : State) (x : TileCache) : (s.setCache x).cmd = s.cmd := rfl
@[simp] theorem State.setCache_rep (s : State) (x : TileCache) : (s.setCache x).rep = s.rep := rfl
@[simp] theorem State.setCache_arb (s : State) (x : TileCache) : (s.setCache x).arb = s.arb := rfl
@[simp] theorem State.setCache_bulk (s : State) (x : TileCache) : (s.setCache x).bulk = s.bulk := rfl
@[simp] theorem State.setCache_classes (s : State) (x : TileCache) : (s.setCache x).classes = s.classes := rfl
@[simp] theorem State.setCache_pending (s : State) (x : TileCache) : (s.setCache x).pending = s.pending := rfl
@[simp] theorem State.setCmd_resetLow (s : State) (x : CommandUnit) : (s.setCmd x).resetLow = s.resetLow := rfl
@[simp] theorem State.setCmd_planBase (s : State) (x : CommandUnit) : (s.setCmd x).planBase = s.planBase := rfl
@[simp] theorem State.setCmd_inHand (s : State) (x : CommandUnit) : (s.setCmd x).inHand = s.inHand := rfl
@[simp] theorem State.setCmd_waiting (s : State) (x : CommandUnit) : (s.setCmd x).waiting = s.waiting := rfl
@[simp] theorem State.setCmd_answers (s : State) (x : CommandUnit) : (s.setCmd x).answers = s.answers := rfl
@[simp] theorem State.setCmd_hdr (s : State) (x : CommandUnit) : (s.setCmd x).hdr = s.hdr := rfl
@[simp] theorem State.setCmd_dark (s : State) (x : CommandUnit) : (s.setCmd x).dark = s.dark := rfl
@[simp] theorem State.setCmd_rot (s : State) (x : CommandUnit) : (s.setCmd x).rot = s.rot := rfl
@[simp] theorem State.setCmd_cache (s : State) (x : CommandUnit) : (s.setCmd x).cache = s.cache := rfl
@[simp] theorem State.setCmd_cmd (s : State) (x : CommandUnit) : (s.setCmd x).cmd = x := rfl
@[simp] theorem State.setCmd_rep (s : State) (x : CommandUnit) : (s.setCmd x).rep = s.rep := rfl
@[simp] theorem State.setCmd_arb (s : State) (x : CommandUnit) : (s.setCmd x).arb = s.arb := rfl
@[simp] theorem State.setCmd_bulk (s : State) (x : CommandUnit) : (s.setCmd x).bulk = s.bulk := rfl
@[simp] theorem State.setCmd_classes (s : State) (x : CommandUnit) : (s.setCmd x).classes = s.classes := rfl
@[simp] theorem State.setCmd_pending (s : State) (x : CommandUnit) : (s.setCmd x).pending = s.pending := rfl
@[simp] theorem State.setRep_resetLow (s : State) (x : ReportUnit) : (s.setRep x).resetLow = s.resetLow := rfl
@[simp] theorem State.setRep_planBase (s : State) (x : ReportUnit) : (s.setRep x).planBase = s.planBase := rfl
@[simp] theorem State.setRep_inHand (s : State) (x : ReportUnit) : (s.setRep x).inHand = s.inHand := rfl
@[simp] theorem State.setRep_waiting (s : State) (x : ReportUnit) : (s.setRep x).waiting = s.waiting := rfl
@[simp] theorem State.setRep_answers (s : State) (x : ReportUnit) : (s.setRep x).answers = s.answers := rfl
@[simp] theorem State.setRep_hdr (s : State) (x : ReportUnit) : (s.setRep x).hdr = s.hdr := rfl
@[simp] theorem State.setRep_dark (s : State) (x : ReportUnit) : (s.setRep x).dark = s.dark := rfl
@[simp] theorem State.setRep_rot (s : State) (x : ReportUnit) : (s.setRep x).rot = s.rot := rfl
@[simp] theorem State.setRep_cache (s : State) (x : ReportUnit) : (s.setRep x).cache = s.cache := rfl
@[simp] theorem State.setRep_cmd (s : State) (x : ReportUnit) : (s.setRep x).cmd = s.cmd := rfl
@[simp] theorem State.setRep_rep (s : State) (x : ReportUnit) : (s.setRep x).rep = x := rfl
@[simp] theorem State.setRep_arb (s : State) (x : ReportUnit) : (s.setRep x).arb = s.arb := rfl
@[simp] theorem State.setRep_bulk (s : State) (x : ReportUnit) : (s.setRep x).bulk = s.bulk := rfl
@[simp] theorem State.setRep_classes (s : State) (x : ReportUnit) : (s.setRep x).classes = s.classes := rfl
@[simp] theorem State.setRep_pending (s : State) (x : ReportUnit) : (s.setRep x).pending = s.pending := rfl
@[simp] theorem State.setArb_resetLow (s : State) (x : Arbiter) : (s.setArb x).resetLow = s.resetLow := rfl
@[simp] theorem State.setArb_planBase (s : State) (x : Arbiter) : (s.setArb x).planBase = s.planBase := rfl
@[simp] theorem State.setArb_inHand (s : State) (x : Arbiter) : (s.setArb x).inHand = s.inHand := rfl
@[simp] theorem State.setArb_waiting (s : State) (x : Arbiter) : (s.setArb x).waiting = s.waiting := rfl
@[simp] theorem State.setArb_answers (s : State) (x : Arbiter) : (s.setArb x).answers = s.answers := rfl
@[simp] theorem State.setArb_hdr (s : State) (x : Arbiter) : (s.setArb x).hdr = s.hdr := rfl
@[simp] theorem State.setArb_dark (s : State) (x : Arbiter) : (s.setArb x).dark = s.dark := rfl
@[simp] theorem State.setArb_rot (s : State) (x : Arbiter) : (s.setArb x).rot = s.rot := rfl
@[simp] theorem State.setArb_cache (s : State) (x : Arbiter) : (s.setArb x).cache = s.cache := rfl
@[simp] theorem State.setArb_cmd (s : State) (x : Arbiter) : (s.setArb x).cmd = s.cmd := rfl
@[simp] theorem State.setArb_rep (s : State) (x : Arbiter) : (s.setArb x).rep = s.rep := rfl
@[simp] theorem State.setArb_arb (s : State) (x : Arbiter) : (s.setArb x).arb = x := rfl
@[simp] theorem State.setArb_bulk (s : State) (x : Arbiter) : (s.setArb x).bulk = s.bulk := rfl
@[simp] theorem State.setArb_classes (s : State) (x : Arbiter) : (s.setArb x).classes = s.classes := rfl
@[simp] theorem State.setArb_pending (s : State) (x : Arbiter) : (s.setArb x).pending = s.pending := rfl
@[simp] theorem State.setBulk_resetLow (s : State) (x : Option BulkOp) : (s.setBulk x).resetLow = s.resetLow := rfl
@[simp] theorem State.setBulk_planBase (s : State) (x : Option BulkOp) : (s.setBulk x).planBase = s.planBase := rfl
@[simp] theorem State.setBulk_inHand (s : State) (x : Option BulkOp) : (s.setBulk x).inHand = s.inHand := rfl
@[simp] theorem State.setBulk_waiting (s : State) (x : Option BulkOp) : (s.setBulk x).waiting = s.waiting := rfl
@[simp] theorem State.setBulk_answers (s : State) (x : Option BulkOp) : (s.setBulk x).answers = s.answers := rfl
@[simp] theorem State.setBulk_hdr (s : State) (x : Option BulkOp) : (s.setBulk x).hdr = s.hdr := rfl
@[simp] theorem State.setBulk_dark (s : State) (x : Option BulkOp) : (s.setBulk x).dark = s.dark := rfl
@[simp] theorem State.setBulk_rot (s : State) (x : Option BulkOp) : (s.setBulk x).rot = s.rot := rfl
@[simp] theorem State.setBulk_cache (s : State) (x : Option BulkOp) : (s.setBulk x).cache = s.cache := rfl
@[simp] theorem State.setBulk_cmd (s : State) (x : Option BulkOp) : (s.setBulk x).cmd = s.cmd := rfl
@[simp] theorem State.setBulk_rep (s : State) (x : Option BulkOp) : (s.setBulk x).rep = s.rep := rfl
@[simp] theorem State.setBulk_arb (s : State) (x : Option BulkOp) : (s.setBulk x).arb = s.arb := rfl
@[simp] theorem State.setBulk_bulk (s : State) (x : Option BulkOp) : (s.setBulk x).bulk = x := rfl
@[simp] theorem State.setBulk_classes (s : State) (x : Option BulkOp) : (s.setBulk x).classes = s.classes := rfl
@[simp] theorem State.setBulk_pending (s : State) (x : Option BulkOp) : (s.setBulk x).pending = s.pending := rfl
@[simp] theorem State.setClasses_resetLow (s : State) (x : List (Nat × TileClass)) : (s.setClasses x).resetLow = s.resetLow := rfl
@[simp] theorem State.setClasses_planBase (s : State) (x : List (Nat × TileClass)) : (s.setClasses x).planBase = s.planBase := rfl
@[simp] theorem State.setClasses_inHand (s : State) (x : List (Nat × TileClass)) : (s.setClasses x).inHand = s.inHand := rfl
@[simp] theorem State.setClasses_waiting (s : State) (x : List (Nat × TileClass)) : (s.setClasses x).waiting = s.waiting := rfl
@[simp] theorem State.setClasses_answers (s : State) (x : List (Nat × TileClass)) : (s.setClasses x).answers = s.answers := rfl
@[simp] theorem State.setClasses_hdr (s : State) (x : List (Nat × TileClass)) : (s.setClasses x).hdr = s.hdr := rfl
@[simp] theorem State.setClasses_dark (s : State) (x : List (Nat × TileClass)) : (s.setClasses x).dark = s.dark := rfl
@[simp] theorem State.setClasses_rot (s : State) (x : List (Nat × TileClass)) : (s.setClasses x).rot = s.rot := rfl
@[simp] theorem State.setClasses_cache (s : State) (x : List (Nat × TileClass)) : (s.setClasses x).cache = s.cache := rfl
@[simp] theorem State.setClasses_cmd (s : State) (x : List (Nat × TileClass)) : (s.setClasses x).cmd = s.cmd := rfl
@[simp] theorem State.setClasses_rep (s : State) (x : List (Nat × TileClass)) : (s.setClasses x).rep = s.rep := rfl
@[simp] theorem State.setClasses_arb (s : State) (x : List (Nat × TileClass)) : (s.setClasses x).arb = s.arb := rfl
@[simp] theorem State.setClasses_bulk (s : State) (x : List (Nat × TileClass)) : (s.setClasses x).bulk = s.bulk := rfl
@[simp] theorem State.setClasses_classes (s : State) (x : List (Nat × TileClass)) : (s.setClasses x).classes = x := rfl
@[simp] theorem State.setClasses_pending (s : State) (x : List (Nat × TileClass)) : (s.setClasses x).pending = s.pending := rfl
@[simp] theorem State.setPending_resetLow (s : State) (x : List Instr) : (s.setPending x).resetLow = s.resetLow := rfl
@[simp] theorem State.setPending_planBase (s : State) (x : List Instr) : (s.setPending x).planBase = s.planBase := rfl
@[simp] theorem State.setPending_inHand (s : State) (x : List Instr) : (s.setPending x).inHand = s.inHand := rfl
@[simp] theorem State.setPending_waiting (s : State) (x : List Instr) : (s.setPending x).waiting = s.waiting := rfl
@[simp] theorem State.setPending_answers (s : State) (x : List Instr) : (s.setPending x).answers = s.answers := rfl
@[simp] theorem State.setPending_hdr (s : State) (x : List Instr) : (s.setPending x).hdr = s.hdr := rfl
@[simp] theorem State.setPending_dark (s : State) (x : List Instr) : (s.setPending x).dark = s.dark := rfl
@[simp] theorem State.setPending_rot (s : State) (x : List Instr) : (s.setPending x).rot = s.rot := rfl
@[simp] theorem State.setPending_cache (s : State) (x : List Instr) : (s.setPending x).cache = s.cache := rfl
@[simp] theorem State.setPending_cmd (s : State) (x : List Instr) : (s.setPending x).cmd = s.cmd := rfl
@[simp] theorem State.setPending_rep (s : State) (x : List Instr) : (s.setPending x).rep = s.rep := rfl
@[simp] theorem State.setPending_arb (s : State) (x : List Instr) : (s.setPending x).arb = s.arb := rfl
@[simp] theorem State.setPending_bulk (s : State) (x : List Instr) : (s.setPending x).bulk = s.bulk := rfl
@[simp] theorem State.setPending_classes (s : State) (x : List Instr) : (s.setPending x).classes = s.classes := rfl
@[simp] theorem State.setPending_pending (s : State) (x : List Instr) : (s.setPending x).pending = x := rfl

/-- Two states with equal fields are equal: to show that a meaning gives a written-out state, compare it field by field. -/
theorem State.eq_of_fields {s t : State} 
    (resetLow : s.resetLow = t.resetLow) (planBase : s.planBase = t.planBase) (inHand : s.inHand = t.inHand)
    (waiting : s.waiting = t.waiting) (answers : s.answers = t.answers) (hdr : s.hdr = t.hdr)
    (dark : s.dark = t.dark) (rot : s.rot = t.rot) (cache : s.cache = t.cache) (cmd : s.cmd = t.cmd)
    (rep : s.rep = t.rep) (arb : s.arb = t.arb) (bulk : s.bulk = t.bulk) (classes : s.classes = t.classes)
    (pending : s.pending = t.pending) : s = t := by
  cases s; cases t
  simp_all

end Sys2Proof.Machine
end

