-- ==== Sys2Proof/Laws/Table.lean ====
section
/-! SUPPORT. Laws/Table.lean: what the tables by number read back, that their operations keep the canonical form (log 28),
and that canonical tables with equal contents are equal. -/

namespace Sys2Proof.Machine

variable {α β : Type}

/-! ## Reading -/

@[simp] theorem Table.get_nil (d : α) (i : Nat) : Table.get d [] i = d := rfl

theorem Table.get_cons (d : α) (k : Nat) (v : α) (rest : List (Nat × α)) (i : Nat) :
    Table.get d ((k, v) :: rest) i = if k = i then v else Table.get d rest i := rfl

theorem Table.get_erase (d : α) (t : List (Nat × α)) (i j : Nat) :
    Table.get d (Table.erase t i) j = if j = i then d else Table.get d t j := by
  induction t with
  | nil => simp [Table.erase]
  | cons p rest ih =>
    obtain ⟨k, v⟩ := p
    simp only [Table.erase, List.filter_cons, decide_eq_true_eq] at ih ⊢
    by_cases hk : k = i
    · subst hk
      simp only [ne_eq, not_true_eq_false, if_false, ih, Table.get_cons]
      by_cases hj : j = k
      · simp [hj]
      · simp [hj, Ne.symm hj]
    · simp only [ne_eq, hk, not_false_eq_true, if_true, Table.get_cons, ih]
      by_cases hj : k = j
      · subst hj; simp [hk]
      · simp [hj]

theorem Table.get_insert (d : α) (i : Nat) (v : α) (t : List (Nat × α)) (h : ∀ p ∈ t, p.1 ≠ i) (j : Nat) :
    Table.get d (Table.insert i v t) j = if j = i then v else Table.get d t j := by
  induction t with
  | nil => simp [Table.insert, Table.get_cons, eq_comm]
  | cons p rest ih =>
    obtain ⟨k, w⟩ := p
    have hk : k ≠ i := h (k, w) (by simp)
    have ih := ih fun q hq => h q (List.mem_cons_of_mem _ hq)
    simp only [Table.insert]
    split
    · simp only [Table.get_cons]
      by_cases hj : j = i
      · simp [hj]
      · simp [hj, Ne.symm hj]
    · simp only [Table.get_cons, ih]
      by_cases hj : k = j
      · subst hj; simp [hk]
      · simp [hj]

theorem Table.mem_erase {t : List (Nat × α)} {i : Nat} {p : Nat × α} : p ∈ Table.erase t i ↔ p ∈ t ∧ p.1 ≠ i := by
  simp [Table.erase]

/-- What a table reads after one index is set: the value there, as before elsewhere. -/
theorem Table.get_set [DecidableEq α] (d : α) (t : List (Nat × α)) (i : Nat) (v : α) (j : Nat) :
    Table.get d (Table.set d t i v) j = if j = i then v else Table.get d t j := by
  unfold Table.set
  split
  · next h => subst h; rw [Table.get_erase]
  · rw [Table.get_insert d i v _ (fun p hp => (Table.mem_erase.mp hp).2), Table.get_erase]
    by_cases hj : j = i <;> simp [hj]

@[simp] theorem Table.get_set_same [DecidableEq α] (d : α) (t : List (Nat × α)) (i : Nat) (v : α) :
    Table.get d (Table.set d t i v) i = v := by simp [Table.get_set]

theorem Table.get_set_other [DecidableEq α] (d : α) (t : List (Nat × α)) {i j : Nat} (v : α) (h : j ≠ i) :
    Table.get d (Table.set d t i v) j = Table.get d t j := by simp [Table.get_set, h]

/-! ## The canonical form -/

theorem Table.above_cons [DecidableEq α] (d : α) (lo k : Nat) (v : α) (rest : List (Nat × α)) :
    Table.above d lo ((k, v) :: rest) = true ↔ lo ≤ k ∧ v ≠ d ∧ Table.above d (k + 1) rest = true := by
  simp [Table.above, and_assoc]

theorem Table.above_mono [DecidableEq α] {d : α} {lo lo' : Nat} (h : lo' ≤ lo) {t : List (Nat × α)}
    (ht : Table.above d lo t = true) : Table.above d lo' t = true := by
  cases t with
  | nil => rfl
  | cons p rest =>
    obtain ⟨k, v⟩ := p
    rw [Table.above_cons] at ht ⊢
    exact ⟨Nat.le_trans h ht.1, ht.2⟩

/-- An index below every listed one reads as the default. -/
theorem Table.get_of_above [DecidableEq α] {d : α} {lo : Nat} {t : List (Nat × α)} (h : Table.above d lo t = true)
    {i : Nat} (hi : i < lo) : Table.get d t i = d := by
  induction t generalizing lo with
  | nil => rfl
  | cons p rest ih =>
    obtain ⟨k, v⟩ := p
    obtain ⟨hk, -, hr⟩ := (Table.above_cons d lo k v rest).mp h
    rw [Table.get_cons, if_neg (by omega)]
    exact ih hr (by omega)

theorem Table.above_filter [DecidableEq α] {d : α} (q : Nat × α → Bool) {lo : Nat} {t : List (Nat × α)}
    (h : Table.above d lo t = true) : Table.above d lo (t.filter q) = true := by
  induction t generalizing lo with
  | nil => rfl
  | cons p rest ih =>
    obtain ⟨k, v⟩ := p
    obtain ⟨hk, hv, hr⟩ := (Table.above_cons d lo k v rest).mp h
    rw [List.filter_cons]
    split
    · exact (Table.above_cons d lo k v _).mpr ⟨hk, hv, ih hr⟩
    · exact Table.above_mono (by omega) (ih hr)

theorem Table.above_insert [DecidableEq α] {d : α} {i : Nat} {v : α} (hv : v ≠ d) {lo : Nat} {t : List (Nat × α)}
    (hne : ∀ p ∈ t, p.1 ≠ i) (h : Table.above d lo t = true) (hi : lo ≤ i) :
    Table.above d lo (Table.insert i v t) = true := by
  induction t generalizing lo with
  | nil => exact (Table.above_cons d lo i v []).mpr ⟨hi, hv, rfl⟩
  | cons p rest ih =>
    obtain ⟨k, w⟩ := p
    obtain ⟨hk, hw, hr⟩ := (Table.above_cons d lo k w rest).mp h
    have hki : k ≠ i := hne (k, w) (by simp)
    unfold Table.insert
    split
    · next hlt => exact (Table.above_cons d lo i v _).mpr ⟨hi, hv, (Table.above_cons d _ k w rest).mpr ⟨hlt, hw, hr⟩⟩
    · exact (Table.above_cons d lo k w _).mpr
        ⟨hk, hw, ih (fun q hq => hne q (List.mem_cons_of_mem _ hq)) hr (by omega)⟩

theorem Table.wf_nil [DecidableEq α] (d : α) : Table.wf d ([] : List (Nat × α)) = true := rfl

theorem Table.wf_filter [DecidableEq α] {d : α} (q : Nat × α → Bool) {t : List (Nat × α)} (h : Table.wf d t = true) :
    Table.wf d (t.filter q) = true := Table.above_filter q h

theorem Table.wf_erase [DecidableEq α] {d : α} {t : List (Nat × α)} (h : Table.wf d t = true) (i : Nat) :
    Table.wf d (Table.erase t i) = true := Table.wf_filter _ h

/-- Setting an index keeps the canonical form. -/
theorem Table.wf_set [DecidableEq α] {d : α} {t : List (Nat × α)} (h : Table.wf d t = true) (i : Nat) (v : α) :
    Table.wf d (Table.set d t i v) = true := by
  unfold Table.set
  split
  · exact Table.wf_erase h i
  · next hv => exact Table.above_insert hv (fun p hp => (Table.mem_erase.mp hp).2) (Table.wf_erase h i) (Nat.zero_le i)

theorem Table.wf_foldl_set [DecidableEq α] {d : α} (f : List (Nat × α) → β → List (Nat × α))
    (hf : ∀ t b, Table.wf d t = true → Table.wf d (f t b) = true) (l : List β) {t : List (Nat × α)}
    (h : Table.wf d t = true) : Table.wf d (l.foldl f t) = true := by
  induction l generalizing t with
  | nil => exact h
  | cons b rest ih => exact ih (hf t b h)

theorem Table.above_map [DecidableEq α] {d : α} (f : α → α) (hf : ∀ v, v ≠ d → f v ≠ d) {lo : Nat}
    {t : List (Nat × α)} (h : Table.above d lo t = true) :
    Table.above d lo (t.map fun p => (p.1, f p.2)) = true := by
  induction t generalizing lo with
  | nil => rfl
  | cons p rest ih =>
    obtain ⟨k, v⟩ := p
    obtain ⟨hk, hv, hr⟩ := (Table.above_cons d lo k v rest).mp h
    exact (Table.above_cons d lo k (f v) _).mpr ⟨hk, hf v hv, ih hr⟩

/-- Changing every listed value to one that is not the default keeps the canonical form. -/
theorem Table.wf_map [DecidableEq α] {d : α} (f : α → α) (hf : ∀ v, v ≠ d → f v ≠ d) {t : List (Nat × α)}
    (h : Table.wf d t = true) : Table.wf d (t.map fun p => (p.1, f p.2)) = true := Table.above_map f hf h

theorem Table.above_of_rising [DecidableEq α] {d v : α} (hv : v ≠ d) {lo : Nat} {l : List Nat}
    (h : l.Pairwise (· < ·)) (hlo : ∀ i ∈ l, lo ≤ i) : Table.above d lo (l.map fun i => (i, v)) = true := by
  induction l generalizing lo with
  | nil => rfl
  | cons k rest ih =>
    rw [List.pairwise_cons] at h
    exact (Table.above_cons d lo k v _).mpr ⟨hlo k (by simp), hv, ih h.2 h.1⟩

/-- Two canonical tables that read alike at every index are equal data. -/
theorem Table.eq_of_get_eq [DecidableEq α] {d : α} {t u : List (Nat × α)} {lo : Nat}
    (ht : Table.above d lo t = true) (hu : Table.above d lo u = true)
    (h : ∀ i, Table.get d t i = Table.get d u i) : t = u := by
  induction t generalizing u lo with
  | nil =>
    cases u with
    | nil => rfl
    | cons q rest =>
      obtain ⟨k, v⟩ := q
      have hv := ((Table.above_cons d lo k v rest).mp hu).2.1
      exact absurd (by simpa [Table.get_cons] using (h k).symm) hv
  | cons p rest ih =>
    obtain ⟨k, v⟩ := p
    obtain ⟨hk, hv, hr⟩ := (Table.above_cons d lo k v rest).mp ht
    cases u with
    | nil => exact absurd (by simpa [Table.get_cons] using h k) hv
    | cons q rest' =>
      obtain ⟨k', v'⟩ := q
      obtain ⟨hk', hv', hr'⟩ := (Table.above_cons d lo k' v' rest').mp hu
      have hkk : k = k' := by
        rcases Nat.lt_trichotomy k k' with hlt | heq | hgt
        · have := h k
          rw [Table.get_cons, if_pos rfl, Table.get_cons, if_neg (by omega),
            Table.get_of_above hr' (by omega)] at this
          exact absurd this hv
        · exact heq
        · have := h k'
          rw [Table.get_cons, if_neg (by omega), Table.get_of_above hr (by omega), Table.get_cons,
            if_pos rfl] at this
          exact absurd this.symm hv'
      subst hkk
      have hvv : v = v' := by simpa [Table.get_cons] using h k
      subst hvv
      congr 1
      refine ih hr hr' fun i => ?_
      by_cases hi : k = i
      · subst hi
        rw [Table.get_of_above hr (by omega), Table.get_of_above hr' (by omega)]
      · simpa [Table.get_cons, hi] using h i

end Sys2Proof.Machine
end

