-- ==== Sys2Proof/Laws/Ops.lean ====
section
/-! SUPPORT. Laws/Ops.lean: what each shared operation can do, said once: the one block it changes, and that the others
stand. -/

namespace Sys2Proof.Machine

variable (s : State)

/-! ## Numbers -/

/-- A value that rises holds at the greatest one (R186). -/
@[simp] theorem satAdd_toNat {w : Nat} (v : BitVec w) (k : Nat) : (satAdd v k).toNat = min (2 ^ w - 1) (v.toNat + k) := by
  unfold satAdd
  rw [BitVec.toNat_ofNat, Nat.mod_eq_of_lt]
  have := Nat.two_pow_pos w
  omega

/-! ## A block put back as it was -/

@[simp] theorem State.setResetLow_self : s.setResetLow s.resetLow = s := rfl
@[simp] theorem State.setPlanBase_self : s.setPlanBase s.planBase = s := rfl
@[simp] theorem State.setInHand_self : s.setInHand s.inHand = s := rfl
@[simp] theorem State.setWaiting_self : s.setWaiting s.waiting = s := rfl
@[simp] theorem State.setAnswers_self : s.setAnswers s.answers = s := rfl
@[simp] theorem State.setHdr_self : s.setHdr s.hdr = s := rfl
@[simp] theorem State.setDark_self : s.setDark s.dark = s := rfl
@[simp] theorem State.setRot_self : s.setRot s.rot = s := rfl
@[simp] theorem State.setCache_self : s.setCache s.cache = s := rfl
@[simp] theorem State.setCmd_self : s.setCmd s.cmd = s := rfl
@[simp] theorem State.setRep_self : s.setRep s.rep = s := rfl
@[simp] theorem State.setArb_self : s.setArb s.arb = s := rfl
@[simp] theorem State.setBulk_self : s.setBulk s.bulk = s := rfl
@[simp] theorem State.setClasses_self : s.setClasses s.classes = s := rfl
@[simp] theorem State.setPending_self : s.setPending s.pending = s := rfl

/-! ## A counter rises (R186) -/

@[simp] theorem count_resetLow (c : Counter) (k : Nat) : (count c k s).resetLow = s.resetLow := rfl
@[simp] theorem count_planBase (c : Counter) (k : Nat) : (count c k s).planBase = s.planBase := rfl
@[simp] theorem count_inHand (c : Counter) (k : Nat) : (count c k s).inHand = s.inHand := rfl
@[simp] theorem count_waiting (c : Counter) (k : Nat) : (count c k s).waiting = s.waiting := rfl
@[simp] theorem count_answers (c : Counter) (k : Nat) : (count c k s).answers = s.answers := rfl
@[simp] theorem count_hdr (c : Counter) (k : Nat) : (count c k s).hdr = s.hdr := rfl
@[simp] theorem count_dark (c : Counter) (k : Nat) : (count c k s).dark = s.dark := rfl
@[simp] theorem count_rot (c : Counter) (k : Nat) : (count c k s).rot = s.rot := rfl
@[simp] theorem count_cache (c : Counter) (k : Nat) : (count c k s).cache = s.cache := rfl
@[simp] theorem count_cmd (c : Counter) (k : Nat) : (count c k s).cmd = s.cmd := rfl
@[simp] theorem count_arb (c : Counter) (k : Nat) : (count c k s).arb = s.arb := rfl
@[simp] theorem count_bulk (c : Counter) (k : Nat) : (count c k s).bulk = s.bulk := rfl
@[simp] theorem count_classes (c : Counter) (k : Nat) : (count c k s).classes = s.classes := rfl
@[simp] theorem count_pending (c : Counter) (k : Nat) : (count c k s).pending = s.pending := rfl

theorem Counter.index_inj {c d : Counter} (h : c.index = d.index) : c = d := by
  cases c <;> cases d <;> first | rfl | exact absurd h (by decide)

theorem Counter.index_lt (c : Counter) : c.index < 28 := by cases c <;> decide

/-- A counter rises by `k` and holds at its greatest value; the other counters stand. -/
theorem counter_count (c d : Counter) (k : Nat) :
    (count c k s).counter d = if d = c then satAdd (s.counter c) k else s.counter d := by
  show Table.get 0 (Table.set 0 _ _ _) d.index = _
  rw [Table.get_set]
  by_cases h : d = c
  · simp [h]
  · rw [if_neg h, if_neg fun hi => h (Counter.index_inj hi)]; rfl

@[simp] theorem count_rep (c : Counter) (k : Nat) : (count c k s).rep =
    { s.rep with counters := Table.set 0 s.rep.counters c.index (satAdd (s.counter c) k) } := rfl

/-! ## An event is raised (R188) -/

@[simp] theorem raise_resetLow (e : Event) : (raise e s).resetLow = s.resetLow := rfl
@[simp] theorem raise_planBase (e : Event) : (raise e s).planBase = s.planBase := rfl
@[simp] theorem raise_inHand (e : Event) : (raise e s).inHand = s.inHand := rfl
@[simp] theorem raise_waiting (e : Event) : (raise e s).waiting = s.waiting := rfl
@[simp] theorem raise_answers (e : Event) : (raise e s).answers = s.answers := rfl
@[simp] theorem raise_hdr (e : Event) : (raise e s).hdr = s.hdr := rfl
@[simp] theorem raise_dark (e : Event) : (raise e s).dark = s.dark := rfl
@[simp] theorem raise_rot (e : Event) : (raise e s).rot = s.rot := rfl
@[simp] theorem raise_cache (e : Event) : (raise e s).cache = s.cache := rfl
@[simp] theorem raise_cmd (e : Event) : (raise e s).cmd = s.cmd := rfl
@[simp] theorem raise_arb (e : Event) : (raise e s).arb = s.arb := rfl
@[simp] theorem raise_bulk (e : Event) : (raise e s).bulk = s.bulk := rfl
@[simp] theorem raise_classes (e : Event) : (raise e s).classes = s.classes := rfl
@[simp] theorem raise_pending (e : Event) : (raise e s).pending = s.pending := rfl

@[simp] theorem raise_rep (e : Event) :
    (raise e s).rep = { s.rep with raised := s.rep.raised ||| BitVec.twoPow 9 e.bit } := rfl

@[simp] theorem counter_raise (e : Event) (c : Counter) : (raise e s).counter c = s.counter c := rfl

/-! ## Events are cleared (R190) -/

@[simp] theorem clearEvents_resetLow (w : BitVec 32) : (clearEvents w s).resetLow = s.resetLow := rfl
@[simp] theorem clearEvents_planBase (w : BitVec 32) : (clearEvents w s).planBase = s.planBase := rfl
@[simp] theorem clearEvents_inHand (w : BitVec 32) : (clearEvents w s).inHand = s.inHand := rfl
@[simp] theorem clearEvents_waiting (w : BitVec 32) : (clearEvents w s).waiting = s.waiting := rfl
@[simp] theorem clearEvents_answers (w : BitVec 32) : (clearEvents w s).answers = s.answers := rfl
@[simp] theorem clearEvents_hdr (w : BitVec 32) : (clearEvents w s).hdr = s.hdr := rfl
@[simp] theorem clearEvents_dark (w : BitVec 32) : (clearEvents w s).dark = s.dark := rfl
@[simp] theorem clearEvents_rot (w : BitVec 32) : (clearEvents w s).rot = s.rot := rfl
@[simp] theorem clearEvents_cache (w : BitVec 32) : (clearEvents w s).cache = s.cache := rfl
@[simp] theorem clearEvents_cmd (w : BitVec 32) : (clearEvents w s).cmd = s.cmd := rfl
@[simp] theorem clearEvents_arb (w : BitVec 32) : (clearEvents w s).arb = s.arb := rfl
@[simp] theorem clearEvents_bulk (w : BitVec 32) : (clearEvents w s).bulk = s.bulk := rfl
@[simp] theorem clearEvents_classes (w : BitVec 32) : (clearEvents w s).classes = s.classes := rfl
@[simp] theorem clearEvents_pending (w : BitVec 32) : (clearEvents w s).pending = s.pending := rfl

/-! ## A request is answered (R166) -/

@[simp] theorem answer_resetLow (r : Response) (b : List (BitVec 64)) : (answer r b s).resetLow = s.resetLow := rfl
@[simp] theorem answer_planBase (r : Response) (b : List (BitVec 64)) : (answer r b s).planBase = s.planBase := rfl
@[simp] theorem answer_waiting (r : Response) (b : List (BitVec 64)) : (answer r b s).waiting = s.waiting := rfl
@[simp] theorem answer_hdr (r : Response) (b : List (BitVec 64)) : (answer r b s).hdr = s.hdr := rfl
@[simp] theorem answer_dark (r : Response) (b : List (BitVec 64)) : (answer r b s).dark = s.dark := rfl
@[simp] theorem answer_rot (r : Response) (b : List (BitVec 64)) : (answer r b s).rot = s.rot := rfl
@[simp] theorem answer_cache (r : Response) (b : List (BitVec 64)) : (answer r b s).cache = s.cache := rfl
@[simp] theorem answer_cmd (r : Response) (b : List (BitVec 64)) : (answer r b s).cmd = s.cmd := rfl
@[simp] theorem answer_rep (r : Response) (b : List (BitVec 64)) : (answer r b s).rep = s.rep := rfl
@[simp] theorem answer_arb (r : Response) (b : List (BitVec 64)) : (answer r b s).arb = s.arb := rfl
@[simp] theorem answer_bulk (r : Response) (b : List (BitVec 64)) : (answer r b s).bulk = s.bulk := rfl
@[simp] theorem answer_classes (r : Response) (b : List (BitVec 64)) : (answer r b s).classes = s.classes := rfl
@[simp] theorem answer_pending (r : Response) (b : List (BitVec 64)) : (answer r b s).pending = s.pending := rfl

@[simp] theorem answer_inHand (r : Response) (b : List (BitVec 64)) : (answer r b s).inHand = none := rfl
@[simp] theorem answer_answers (r : Response) (b : List (BitVec 64)) : (answer r b s).answers = s.answers ++ [⟨r, b⟩] := rfl

/-! ## A request is carried (R174) -/

@[simp] theorem carry_resetLow (r : Request) : (carry r s).resetLow = s.resetLow := rfl
@[simp] theorem carry_planBase (r : Request) : (carry r s).planBase = s.planBase := rfl
@[simp] theorem carry_waiting (r : Request) : (carry r s).waiting = s.waiting := rfl
@[simp] theorem carry_answers (r : Request) : (carry r s).answers = s.answers := rfl
@[simp] theorem carry_hdr (r : Request) : (carry r s).hdr = s.hdr := rfl
@[simp] theorem carry_dark (r : Request) : (carry r s).dark = s.dark := rfl
@[simp] theorem carry_rot (r : Request) : (carry r s).rot = s.rot := rfl
@[simp] theorem carry_cache (r : Request) : (carry r s).cache = s.cache := rfl
@[simp] theorem carry_cmd (r : Request) : (carry r s).cmd = s.cmd := rfl
@[simp] theorem carry_rep (r : Request) : (carry r s).rep = s.rep := rfl
@[simp] theorem carry_arb (r : Request) : (carry r s).arb = s.arb := rfl
@[simp] theorem carry_bulk (r : Request) : (carry r s).bulk = s.bulk := rfl
@[simp] theorem carry_classes (r : Request) : (carry r s).classes = s.classes := rfl
@[simp] theorem carry_pending (r : Request) : (carry r s).pending = s.pending := rfl

@[simp] theorem carry_inHand (r : Request) : (carry r s).inHand = some (.through r false) := rfl

/-! ## A transaction is no longer in flight (R176) -/

@[simp] theorem land_resetLow (i : Nat) : (land i s).resetLow = s.resetLow := rfl
@[simp] theorem land_planBase (i : Nat) : (land i s).planBase = s.planBase := rfl
@[simp] theorem land_inHand (i : Nat) : (land i s).inHand = s.inHand := rfl
@[simp] theorem land_waiting (i : Nat) : (land i s).waiting = s.waiting := rfl
@[simp] theorem land_answers (i : Nat) : (land i s).answers = s.answers := rfl
@[simp] theorem land_hdr (i : Nat) : (land i s).hdr = s.hdr := rfl
@[simp] theorem land_dark (i : Nat) : (land i s).dark = s.dark := rfl
@[simp] theorem land_rot (i : Nat) : (land i s).rot = s.rot := rfl
@[simp] theorem land_cache (i : Nat) : (land i s).cache = s.cache := rfl
@[simp] theorem land_cmd (i : Nat) : (land i s).cmd = s.cmd := rfl
@[simp] theorem land_rep (i : Nat) : (land i s).rep = s.rep := rfl
@[simp] theorem land_bulk (i : Nat) : (land i s).bulk = s.bulk := rfl
@[simp] theorem land_classes (i : Nat) : (land i s).classes = s.classes := rfl
@[simp] theorem land_pending (i : Nat) : (land i s).pending = s.pending := rfl

@[simp] theorem land_inFlight (i : Nat) : (land i s).arb.inFlight = s.arb.inFlight.eraseIdx i := rfl
@[simp] theorem land_passCounts (i : Nat) : (land i s).arb.passCounts = s.arb.passCounts := rfl

/-! ## A command ends (R146) -/

@[simp] theorem finishCommand_resetLow (o : CommandOutcome) : (finishCommand o s).resetLow = s.resetLow := rfl
@[simp] theorem finishCommand_planBase (o : CommandOutcome) : (finishCommand o s).planBase = s.planBase := rfl
@[simp] theorem finishCommand_inHand (o : CommandOutcome) : (finishCommand o s).inHand = s.inHand := rfl
@[simp] theorem finishCommand_waiting (o : CommandOutcome) : (finishCommand o s).waiting = s.waiting := rfl
@[simp] theorem finishCommand_answers (o : CommandOutcome) : (finishCommand o s).answers = s.answers := rfl
@[simp] theorem finishCommand_hdr (o : CommandOutcome) : (finishCommand o s).hdr = s.hdr := rfl
@[simp] theorem finishCommand_dark (o : CommandOutcome) : (finishCommand o s).dark = s.dark := rfl
@[simp] theorem finishCommand_rot (o : CommandOutcome) : (finishCommand o s).rot = s.rot := rfl
@[simp] theorem finishCommand_cache (o : CommandOutcome) : (finishCommand o s).cache = s.cache := rfl
@[simp] theorem finishCommand_arb (o : CommandOutcome) : (finishCommand o s).arb = s.arb := rfl
@[simp] theorem finishCommand_bulk (o : CommandOutcome) : (finishCommand o s).bulk = s.bulk := rfl
@[simp] theorem finishCommand_classes (o : CommandOutcome) : (finishCommand o s).classes = s.classes := rfl
@[simp] theorem finishCommand_pending (o : CommandOutcome) : (finishCommand o s).pending = s.pending := rfl

@[simp] theorem finishCommand_cmd (o : CommandOutcome) : (finishCommand o s).cmd =
    { s.cmd with inFlight := none, record := { s.cmd.record with outcome := some o } } := rfl
@[simp] theorem finishCommand_rep (o : CommandOutcome) :
    (finishCommand o s).rep = { s.rep with raised := s.rep.raised ||| 4 } := rfl

/-! ## ABORT's effects, and a command that stops for an ABORT (R163, R164) -/

@[simp] theorem abortEffects_resetLow : (abortEffects s).resetLow = s.resetLow := by
  simp only [abortEffects, State.setArb_resetLow, State.setCache_resetLow, State.setDark_resetLow,
    State.setHdr_resetLow, State.setCmd_resetLow]
@[simp] theorem abortEffects_planBase : (abortEffects s).planBase = s.planBase := by
  simp only [abortEffects, State.setArb_planBase, State.setCache_planBase, State.setDark_planBase,
    State.setHdr_planBase, State.setCmd_planBase]
@[simp] theorem abortEffects_inHand : (abortEffects s).inHand = s.inHand := by
  simp only [abortEffects, State.setArb_inHand, State.setCache_inHand, State.setDark_inHand,
    State.setHdr_inHand, State.setCmd_inHand]
@[simp] theorem abortEffects_waiting : (abortEffects s).waiting = s.waiting := by
  simp only [abortEffects, State.setArb_waiting, State.setCache_waiting, State.setDark_waiting,
    State.setHdr_waiting, State.setCmd_waiting]
@[simp] theorem abortEffects_answers : (abortEffects s).answers = s.answers := by
  simp only [abortEffects, State.setArb_answers, State.setCache_answers, State.setDark_answers,
    State.setHdr_answers, State.setCmd_answers]
@[simp] theorem abortEffects_rot : (abortEffects s).rot = s.rot := by
  simp only [abortEffects, State.setArb_rot, State.setCache_rot, State.setDark_rot, State.setHdr_rot,
    State.setCmd_rot]
@[simp] theorem abortEffects_classes : (abortEffects s).classes = s.classes := by
  simp only [abortEffects, State.setArb_classes, State.setCache_classes, State.setDark_classes,
    State.setHdr_classes, State.setCmd_classes]
@[simp] theorem abortEffects_pending : (abortEffects s).pending = s.pending := by
  simp only [abortEffects, State.setArb_pending, State.setCache_pending, State.setDark_pending,
    State.setHdr_pending, State.setCmd_pending]
@[simp] theorem abortEffects_rep : (abortEffects s).rep = s.rep := by
  simp only [abortEffects, State.setArb_rep, State.setCache_rep, State.setDark_rep, State.setHdr_rep,
    State.setCmd_rep]
@[simp] theorem abortEffects_bulk : (abortEffects s).bulk = s.bulk := by
  simp only [abortEffects, State.setArb_bulk, State.setCache_bulk, State.setDark_bulk, State.setHdr_bulk,
    State.setCmd_bulk]
@[simp] theorem stopForAbort_resetLow : (stopForAbort s).resetLow = s.resetLow := by
  simp only [stopForAbort, finishCommand_resetLow, abortEffects_resetLow, State.setBulk_resetLow,
    State.setCmd_resetLow]
@[simp] theorem stopForAbort_planBase : (stopForAbort s).planBase = s.planBase := by
  simp only [stopForAbort, finishCommand_planBase, abortEffects_planBase, State.setBulk_planBase,
    State.setCmd_planBase]
@[simp] theorem stopForAbort_inHand : (stopForAbort s).inHand = s.inHand := by
  simp only [stopForAbort, finishCommand_inHand, abortEffects_inHand, State.setBulk_inHand, State.setCmd_inHand]
@[simp] theorem stopForAbort_waiting : (stopForAbort s).waiting = s.waiting := by
  simp only [stopForAbort, finishCommand_waiting, abortEffects_waiting, State.setBulk_waiting, State.setCmd_waiting]
@[simp] theorem stopForAbort_answers : (stopForAbort s).answers = s.answers := by
  simp only [stopForAbort, finishCommand_answers, abortEffects_answers, State.setBulk_answers, State.setCmd_answers]
@[simp] theorem stopForAbort_rot : (stopForAbort s).rot = s.rot := by
  simp only [stopForAbort, finishCommand_rot, abortEffects_rot, State.setBulk_rot, State.setCmd_rot]
@[simp] theorem stopForAbort_classes : (stopForAbort s).classes = s.classes := by
  simp only [stopForAbort, finishCommand_classes, abortEffects_classes, State.setBulk_classes, State.setCmd_classes]
@[simp] theorem stopForAbort_pending : (stopForAbort s).pending = s.pending := by
  simp only [stopForAbort, finishCommand_pending, abortEffects_pending, State.setBulk_pending, State.setCmd_pending]

/-! ## An accepted START (R152, R153) -/

@[simp] theorem startRun_resetLow (m : RunMode) : (startRun m s).resetLow = s.resetLow := by
  simp only [startRun, State.setRep_resetLow, State.setCache_resetLow, State.setDark_resetLow,
    State.setRot_resetLow, State.setHdr_resetLow, State.setCmd_resetLow]
@[simp] theorem startRun_planBase (m : RunMode) : (startRun m s).planBase = s.planBase := by
  simp only [startRun, State.setRep_planBase, State.setCache_planBase, State.setDark_planBase,
    State.setRot_planBase, State.setHdr_planBase, State.setCmd_planBase]
@[simp] theorem startRun_inHand (m : RunMode) : (startRun m s).inHand = s.inHand := by
  simp only [startRun, State.setRep_inHand, State.setCache_inHand, State.setDark_inHand, State.setRot_inHand,
    State.setHdr_inHand, State.setCmd_inHand]
@[simp] theorem startRun_waiting (m : RunMode) : (startRun m s).waiting = s.waiting := by
  simp only [startRun, State.setRep_waiting, State.setCache_waiting, State.setDark_waiting,
    State.setRot_waiting, State.setHdr_waiting, State.setCmd_waiting]
@[simp] theorem startRun_answers (m : RunMode) : (startRun m s).answers = s.answers := by
  simp only [startRun, State.setRep_answers, State.setCache_answers, State.setDark_answers,
    State.setRot_answers, State.setHdr_answers, State.setCmd_answers]
@[simp] theorem startRun_arb (m : RunMode) : (startRun m s).arb = s.arb := by
  simp only [startRun, State.setRep_arb, State.setCache_arb, State.setDark_arb, State.setRot_arb,
    State.setHdr_arb, State.setCmd_arb]
@[simp] theorem startRun_bulk (m : RunMode) : (startRun m s).bulk = s.bulk := by
  simp only [startRun, State.setRep_bulk, State.setCache_bulk, State.setDark_bulk, State.setRot_bulk,
    State.setHdr_bulk, State.setCmd_bulk]
@[simp] theorem startRun_classes (m : RunMode) : (startRun m s).classes = s.classes := by
  simp only [startRun, State.setRep_classes, State.setCache_classes, State.setDark_classes,
    State.setRot_classes, State.setHdr_classes, State.setCmd_classes]
@[simp] theorem startRun_pending (m : RunMode) : (startRun m s).pending = s.pending := by
  simp only [startRun, State.setRep_pending, State.setCache_pending, State.setDark_pending,
    State.setRot_pending, State.setHdr_pending, State.setCmd_pending]

/-! ## The restoration of RESUME (R162) -/

@[simp] theorem restoreRun_resetLow (image : Nat) : (restoreRun image s).resetLow = s.resetLow := by
  simp only [restoreRun, State.setRep_resetLow, State.setCache_resetLow, State.setRot_resetLow,
    State.setDark_resetLow, State.setHdr_resetLow, State.setCmd_resetLow]
@[simp] theorem restoreRun_planBase (image : Nat) : (restoreRun image s).planBase = s.planBase := by
  simp only [restoreRun, State.setRep_planBase, State.setCache_planBase, State.setRot_planBase,
    State.setDark_planBase, State.setHdr_planBase, State.setCmd_planBase]
@[simp] theorem restoreRun_inHand (image : Nat) : (restoreRun image s).inHand = s.inHand := by
  simp only [restoreRun, State.setRep_inHand, State.setCache_inHand, State.setRot_inHand,
    State.setDark_inHand, State.setHdr_inHand, State.setCmd_inHand]
@[simp] theorem restoreRun_waiting (image : Nat) : (restoreRun image s).waiting = s.waiting := by
  simp only [restoreRun, State.setRep_waiting, State.setCache_waiting, State.setRot_waiting,
    State.setDark_waiting, State.setHdr_waiting, State.setCmd_waiting]
@[simp] theorem restoreRun_answers (image : Nat) : (restoreRun image s).answers = s.answers := by
  simp only [restoreRun, State.setRep_answers, State.setCache_answers, State.setRot_answers,
    State.setDark_answers, State.setHdr_answers, State.setCmd_answers]
@[simp] theorem restoreRun_arb (image : Nat) : (restoreRun image s).arb = s.arb := by
  simp only [restoreRun, State.setRep_arb, State.setCache_arb, State.setRot_arb, State.setDark_arb,
    State.setHdr_arb, State.setCmd_arb]
@[simp] theorem restoreRun_bulk (image : Nat) : (restoreRun image s).bulk = s.bulk := by
  simp only [restoreRun, State.setRep_bulk, State.setCache_bulk, State.setRot_bulk, State.setDark_bulk,
    State.setHdr_bulk, State.setCmd_bulk]
@[simp] theorem restoreRun_classes (image : Nat) : (restoreRun image s).classes = s.classes := by
  simp only [restoreRun, State.setRep_classes, State.setCache_classes, State.setRot_classes,
    State.setDark_classes, State.setHdr_classes, State.setCmd_classes]
@[simp] theorem restoreRun_pending (image : Nat) : (restoreRun image s).pending = s.pending := by
  simp only [restoreRun, State.setRep_pending, State.setCache_pending, State.setRot_pending,
    State.setDark_pending, State.setHdr_pending, State.setCmd_pending]

end Sys2Proof.Machine
end

