-- ==== Sys2Proof/Laws/Path.lean ====
section
/-! SUPPORT. Laws/Path.lean: how a command reaches its effect: the step, the taking of requests, the events of the M-link
and what goes on after them. -/

namespace Sys2Proof.Machine

variable {s : State} {r : Request}

/-! ## The step -/

theorem step_nil (h : s.pending = []) : step s = .next s := by simp only [step, h]

theorem step_cons {c : Instr} {rest : List Instr} (h : s.pending = c :: rest) : step s = exec c (s.setPending rest) := by
  simp only [step, h]

/-! ## Requests (R165, R167, R170) -/

theorem State.canTake_iff :
    s.canTake r = true ↔ s.inHand = none ∧ s.resetLow = false ∧ s.holdsBack r = false := by
  simp [State.canTake, and_assoc]

theorem State.isFree.canTake (h : s.isFree) (hb : s.holdsBack r = false) : s.canTake r = true :=
  State.canTake_iff.mpr ⟨h.1, h.2.2, hb⟩

/-- Work that leaves the waiting requests as they were, in a state where none waits. -/
theorem setWaiting_nil_of {t : State} (h : t.waiting = []) : t.setWaiting [] = t := by rw [← h]; rfl

theorem takeAll_nil : takeAll [] s = s.setWaiting [] := rfl

theorem takeAll_cons (rest : List Request) :
    takeAll (r :: rest) s =
      if s.canTake r then takeAll rest ((takeRequest r s).setWaiting []) else s.setWaiting (r :: rest) := rfl

/-- With nothing waiting, nothing is taken and nothing changes. -/
theorem takeAll_none (h : s.waiting = []) : takeAll [] s = s := by rw [takeAll_nil, ← h]; rfl

/-- A request that finds the part free and is not held back is taken at once. -/
theorem arrive_taken (h : s.isFree) (hb : s.holdsBack r = false) : arrive r s = (takeRequest r s).setWaiting [] := by
  rw [arrive, h.2.1, setWaiting_nil_of h.2.1, List.nil_append, takeAll_cons, if_pos (h.canTake hb), takeAll_nil]
  rfl

/-- A request waits when the first of the queue it joins cannot be taken. -/
theorem arrive_waits {w : Request} (hw : (s.waiting ++ [r]).head? = some w) (h : s.canTake w = false) :
    arrive r s = s.setWaiting (s.waiting ++ [r]) := by
  unfold arrive
  cases hl : s.waiting ++ [r] with
  | nil => simp [hl] at hw
  | cons a rest =>
    rw [hl] at hw
    obtain rfl : a = w := by simpa using hw
    have h : (s.setWaiting []).canTake a = false := h
    rw [takeAll_cons, h]; rfl

/-- What a window makes of a request that passes the tests of R167. -/
def takeInWindow (w : Window) (r : Request) (s : State) : State :=
  match w with
  | .report => takeReport r s
  | .capture => takeCapture r s
  | .image => takeResult .image s.active.imageRegion.base r s
  | .coverage => takeResult .coverage s.active.coverageRegion.base r s
  | w => takeThrough w r s

theorem takeRequest_takesIn {w : Window} (h : s.takesIn r w) : takeRequest r s = takeInWindow w r s := by
  unfold takeRequest
  rw [h.2.2.1, h.2.2.2]
  cases w <;> rfl

/-- A request that is taken at once in window `w`: the window's work, nothing left waiting. -/
theorem arrive_takesIn {w : Window} (h : s.takesIn r w) : arrive r s = (takeInWindow w r s).setWaiting [] := by
  rw [arrive_taken h.1 h.2.1, takeRequest_takesIn h]

theorem arrive_refused (h : s.isFree) (hb : s.holdsBack r = false) (hr : s.refuses r = true) :
    arrive r s = (refuse r s).setWaiting [] := by
  rw [arrive_taken h hb]; unfold takeRequest; rw [if_pos hr]

/-- An answer given to a request that was taken from a free state. -/
theorem answer_eq_answering {t : State} (h : t.inHand = none) (resp : Response) (beats : List (BitVec 64)) :
    answer resp beats t = t.answering resp beats := by
  cases t; simp_all [answer, State.answering, State.setAnswers, State.setInHand]

theorem carry_eq_carrying (r : Request) (t : State) : carry r t = t.carrying r := rfl

/-! ## Events of the M-link (R176) -/

/-- An answer that names a transaction of its own kind finds it. -/
theorem flightOf_flying {index : Nat} {p : Purpose} (h : s.flying index p) {kind : Purpose → Bool} (hk : kind p = true) :
    ∃ txn, s.flightOf index kind = some ⟨p, txn⟩ := by
  obtain ⟨txn, ht⟩ := h
  exact ⟨txn, by simp [State.flightOf, ht, Option.filter, hk]⟩

theorem land_eq_landed (index : Nat) (t : State) : land index t = t.landed index := rfl

theorem resumeHand_none (h : s.inHand = none) : resumeHand s = s := by
  unfold resumeHand; split <;> simp [h, busyHand]

/-- With nothing in hand and nothing waiting, an event leaves nothing to go on. -/
theorem settle_quiet (h : s.inHand = none) (hw : s.waiting = []) : settle s = s := by
  rw [settle, setWaiting_nil_of hw, resumeHand_none h, hw]
  exact takeAll_none hw

/-- While a fill or an eviction is in progress the request in hand waits on, its lost blocks discarded. -/
theorem resumeHand_busy (h : s.cache.isBusy = true) : resumeHand s = busyHand s := by simp [resumeHand, h]

/-- With no lost block in hand a wait leaves the request in hand as it is. -/
theorem busyHand_eq_self (h : ∀ b ∈ s.blocksInHand, b.isLost = false) : busyHand s = s := by
  unfold busyHand
  split
  next cap hc =>
    have hl : cap.blocks.filter Block.isLost = [] :=
      List.filter_eq_nil_iff.mpr fun b hb => by simp [h b (by simpa [State.blocksInHand, hc] using hb)]
    have hk : (cap.blocks.filter fun b => !b.isLost) = cap.blocks :=
      List.filter_eq_self.mpr fun b hb => by simp [h b (by simpa [State.blocksInHand, hc] using hb)]
    simp only [discardLost, hl, List.length_nil, if_true, hk]
    cases s; simp_all [State.setInHand]
  all_goals rfl

/-- With a request in hand that does not go on, none is taken. -/
theorem settle_waits (h : resumeHand s = s) (hw : s.waiting = []) : settle s = s := by
  rw [settle, setWaiting_nil_of hw, h, hw]
  exact takeAll_none hw

/-! ## Commands -/

theorem finishCommand_eq_withOutcome (o : CommandOutcome) (t : State) : finishCommand o t = t.withOutcome o := rfl

end Sys2Proof.Machine
end

