-- ==== Sys2Proof/Laws/Leads.lean ====
section
/-! SUPPORT. Laws/Leads.lean: what an access to the Tile Cache, the samples of a fold and the lanes of a result read come to, in
the words of Safety.lean. -/

namespace Sys2Proof.Machine

variable {c : TileCache} {u : State} {i tile : Nat} {x : Sector}

/-! ## Searching the sectors -/

theorem find_range {n i : Nat} {p : Nat → Bool} (h : i < n) (hp : p i = true) (hb : ∀ k, k < i → p k = false) :
    (List.range n).find? p = some i := by
  rw [List.find?_eq_some_iff_append]
  refine ⟨hp, List.range i, (List.range (n - i - 1)).map (· + (i + 1)), ?_, fun k hk => ?_⟩
  · apply List.ext_getElem
    · simp; omega
    · intro k h1 h2
      simp only [List.getElem_range, List.getElem_append, List.length_range, List.getElem_cons, List.getElem_map]
      split
      · rfl
      · split <;> omega
  · rw [hb k (List.mem_range.mp hk)]; rfl

theorem TileCache.holder_of_keeps (h : c.keeps i tile x) : c.holder tile = some i := by
  obtain ⟨hi, hx, ht, hb⟩ := h
  refine find_range hi (by simp [hx, ht]) fun k hk => ?_
  split
  · next y hy => simpa using hb k y hk hy
  · rfl

theorem TileCache.holder_of_lacks (h : c.lacks tile) : c.holder tile = none := by
  refine List.find?_eq_none.mpr fun k hk => ?_
  split
  · next y hy => simpa using h k y (List.mem_range.mp hk) hy
  · simp

/-- A tile is held or it is not. -/
theorem TileCache.lacks_or_keeps (c : TileCache) (tile : Nat) : c.lacks tile ∨ ∃ i x, c.keeps i tile x := by
  by_cases h : c.lacks tile
  · exact .inl h
  · right
    simp only [TileCache.lacks, not_forall, Decidable.not_not] at h
    obtain ⟨k, y, hk, hy, ht⟩ := h
    have hex : ∃ k, k < 32 ∧ ∃ y, c.sector k = some y ∧ y.tile = tile := ⟨k, hk, y, hy, ht⟩
    classical
    obtain ⟨h1, y, h2, h3⟩ := Nat.find_spec hex
    exact ⟨Nat.find hex, y, h1, h2, h3, fun j z hj hz hzt => Nat.find_min hex hj ⟨by omega, z, hz, hzt⟩⟩

/-! ## Allocation (R116) -/

theorem TileCache.eligible_iff {k : Nat} : c.eligible k = true ↔ c.mayLeave k := by
  unfold TileCache.eligible TileCache.mayLeave
  cases h : c.sector k with
  | none => simp
  | some y => cases hf : c.flush <;> simp

theorem TileCache.victim_of_leaves (h : c.leaves i) : c.victim = some i := by
  obtain ⟨-, before, after, hr, hi, ha⟩ := h
  rw [TileCache.victim, hr, List.find?_eq_some_iff_append]
  refine ⟨TileCache.eligible_iff.mpr hi, after.reverse, before.reverse, by simp, fun k hk => ?_⟩
  have := ha k (List.mem_reverse.mp hk)
  simpa [← TileCache.eligible_iff] using this

theorem TileCache.lowestFree_of_full (h : ∀ k, k < 32 → c.sector k ≠ none) : c.lowestFree = none :=
  List.find?_eq_none.mpr fun k hk => by simpa using h k (List.mem_range.mp hk)

theorem TileCache.allocate_of_takes (h : c.takes i) (fresh : Rec) : c.allocate tile fresh = c.take i tile fresh := by
  obtain ⟨hi, ⟨hn, hb⟩ | ⟨hl, hc⟩⟩ := h
  · have : c.lowestFree = some i := find_range hi (by simp [hn]) fun k hk => by
      cases h : c.sector k with
      | none => exact absurd h (hb k hk)
      | some y => rfl
    simp only [TileCache.allocate, this]
  · have hd : c.stateIs i .dirty = false := by
      revert hc; unfold TileCache.stateIs
      cases c.sector i with
      | none => simp
      | some y => simp +contextual
    simp only [TileCache.allocate, lowestFree_of_full hl.1, victim_of_leaves hl, hd, Bool.false_eq_true, if_false]

theorem TileCache.allocate_of_dirty (h : c.leaves i) (hx : c.sector i = some x) (hd : x.state = .dirty) (fresh : Rec) :
    c.allocate tile fresh = .waits (c.beginWriteback i false) := by
  have hd : c.stateIs i .dirty = true := by simp [TileCache.stateIs, hx, hd]
  simp only [TileCache.allocate, lowestFree_of_full h.1, victim_of_leaves h, hd, if_true]

theorem TileCache.allocate_of_none (h : ∀ k, k < 32 → c.sector k ≠ none) (hr : ∀ k, k ∈ c.recency → ¬c.mayLeave k)
    (fresh : Rec) : c.allocate tile fresh = .waits c := by
  have : c.victim = none := List.find?_eq_none.mpr fun k hk => by
    simpa [← TileCache.eligible_iff] using hr k (List.mem_reverse.mp hk)
  simp only [TileCache.allocate, lowestFree_of_full h, this]

/-! ## Accesses (R112 to R117) -/

/-- A sector that is not FILLING serves the access: it is held and most recent. -/
theorem TileCache.access_of_keeps (h : c.keeps i tile x) (hs : x.state ≠ .filling) (byFold : Bool) (fresh : Rec) :
    c.access byFold tile fresh = .served { c.setSector i (some { x with held := true }) with
      recency := i :: c.recency.filter fun k => decide (k ≠ i) } i := by
  have hst : c.stateIs i .filling = false := by simp [TileCache.stateIs, h.2.1, hs]
  simp only [TileCache.access, holder_of_keeps h, hst, Bool.false_eq_true, if_false, TileCache.serve, h.2.1]
  rfl

/-- What is to be shown of an access that waits holds in each case in which it does. -/
theorem State.accessWaits_of {P : TileCache → Prop} {byFold : Bool}
    (h : ∀ c, u.cache.access byFold tile (freshRec u.cmd.snap.devinit) = .waits c → P c)
    (ht : byFold = false → u.cache.lacks tile → u.cache.isTouched tile = true) : u.accessWaits tile P := by
  refine ⟨fun i x hk hf => h _ ?_, fun hl => ?_⟩
  · have hst : u.cache.stateIs i .filling = true := by simp [TileCache.stateIs, hk.2.1, hf]
    simp only [TileCache.access, TileCache.holder_of_keeps hk, hst, if_true]
  · have ha : u.cache.access byFold tile (freshRec u.cmd.snap.devinit)
        = u.cache.allocate tile (freshRec u.cmd.snap.devinit) := by
      cases byFold with
      | true => simp [TileCache.access, TileCache.holder_of_lacks hl]
      | false => simp [TileCache.access, TileCache.holder_of_lacks hl, ht rfl hl]
    rw [ha] at h
    refine ⟨fun i hi ht => h _ ?_, fun i x hi hx hd => h _ ?_, fun hf hr => h _ (TileCache.allocate_of_none hf hr _)⟩
    · rw [TileCache.allocate_of_takes hi, TileCache.take, ht, if_pos rfl]; rfl
    · rw [TileCache.allocate_of_dirty hi hx hd]
      simp only [TileCache.beginWriteback, hx]

/-- What is to be shown of the record a result read asks for holds in each case (R112 to R114). -/
theorem State.recordLeadsTo_of {f : Frozen} {px py : Nat} {got : State → Rec → Prop} {waits : State → Prop}
    (hg : ∀ t r, readRecord f px py u = .got t r → got t r) (hw : ∀ t, readRecord f px py u = .waits t → waits t) :
    u.recordLeadsTo (f.tileOf px py) (tilePosition px py) got waits := by
  refine ⟨fun i x hk hs => hg _ _ ?_, fun hl ht => hg _ _ ?_, fun ht => State.accessWaits_of (byFold := false)
    (fun c hc => hw _ ?_) fun _ => ht⟩
  · simp only [readRecord, TileCache.access_of_keeps hk hs, TileCache.sector, TileCache.setSector, Table.get_set_same]
    rfl
  · simp only [readRecord, TileCache.access, TileCache.holder_of_lacks hl, ht]
    rfl
  · simp only [readRecord, hc]
    rfl

/-! ## Finished values (R134, R135) -/

/-- The half-even quotient is the nearest whole number, the even one of two. -/
theorem halfEven_spec (num den : Nat) (hd : 0 < den) :
    2 * max (num - (halfEven num den).toNat * den) ((halfEven num den).toNat * den - num) ≤ den
    ∧ (2 * max (num - (halfEven num den).toNat * den) ((halfEven num den).toNat * den - num) = den →
      (halfEven num den).toNat % 2 = 0) := by
  have hq : ((num : Int) / (den : Int)) = ((num / den : Nat) : Int) := by simp
  have hr : ((num : Int) % (den : Int)) = ((num % den : Nat) : Int) := by simp
  have hm := Nat.div_add_mod num den
  have hl := Nat.mod_lt num hd
  have hc : den * (num / den) = num / den * den := Nat.mul_comm _ _
  have hs : (num / den + 1) * den = num / den * den + den := by rw [Nat.add_mul, Nat.one_mul]
  have h0 : ((num / den : Nat) : Int).toNat = num / den := rfl
  have h1 : (((num / den : Nat) : Int) + 1).toNat = num / den + 1 := rfl
  simp only [halfEven, hq, hr]
  split
  · rw [h0]; omega
  · split
    · rw [h1, hs]; omega
    · split
      · rw [h0]; omega
      · rw [h1, hs]; omega

theorem scaledValue_toNat (num den : Nat) : (scaledValue num den).toNat = min 65535 (halfEven num den).toNat := by
  rw [scaledValue, BitVec.toNat_ofNat]; omega

/-- The value the model gives a record with n of 1 or more is the one the statements ask for. -/
theorem Plan.shows_recordValue (p : Plan) (cls : TileClass) {r : Rec} (hn : r.n ≠ 0) : p.shows cls r (recordValue p cls r) := by
  have hn : 0 < r.n.toNat := Nat.pos_of_ne_zero fun h => hn (BitVec.eq_of_toNat_eq (by simpa using h))
  refine ⟨_, _, halfEven_spec (r.sum.toNat * p.gain.toNat) (256 * r.n.toNat) (by omega),
    halfEven_spec (r.peak.toNat * p.trailGain.toNat) 256 (by omega), ?_⟩
  have hm : (meanValue p r).toNat = _ := scaledValue_toNat _ _
  have hp : (peakValue p r).toNat = _ := scaledValue_toNat _ _
  rw [recordValue]
  by_cases hc : cls = .trail
  · rw [if_pos hc, if_pos hc]
    by_cases h : (meanValue p r).toNat < (peakValue p r).toNat
    · rw [if_pos h]; omega
    · rw [if_neg h]; omega
  · rw [if_neg hc, if_neg hc]; exact hm

/-! ## Result reads (R128 to R137) -/

theorem State.classAt_eq (tile : Nat) : u.classAt tile = u.finishClass tile := by
  unfold State.classAt State.finishClass
  cases u.cmd.mode <;> rfl

/-- Asking for a record leaves the plan shadow. -/
theorem readRecord_cmd {f : Frozen} {px py : Nat} {t : State} {r : Rec} (h : readRecord f px py u = .got t r) :
    t.cmd = u.cmd := by
  rw [readRecord] at h
  cases ha : u.cache.access false (f.tileOf px py) (freshRec u.cmd.snap.devinit) with
  | served c i => cases hc : c.sector i <;> simp only [ha, hc] at h <;> cases h <;> rfl
  | fresh => simp only [ha] at h; cases h; rfl
  | waits c => simp only [ha] at h; cases h

section
variable {f : Frozen} {px py : Nat} {value : State → BitVec 16 → Prop} {waits : State → PixelStage → Prop}

theorem State.rightLeadsTo_of (hv : ∀ t v, finishRight f px py u = .value t v → value t v)
    (hw : ∀ t st, finishRight f px py u = .waits t st → waits t st) : u.rightLeadsTo f px py value waits := by
  simp only [finishRight, ← State.classAt_eq, Frozen.tileOf, Frozen.tw] at hv hw
  refine ⟨fun hu => hv _ _ (if_neg hu), fun hu => ?_⟩
  rw [if_pos hu] at hv hw
  refine State.recordLeadsTo_of (f := f) (px := px + 2) (fun t r hr => ?_) fun t hr => hw _ _ (by rw [hr])
  simp only [hr, readRecord_cmd hr] at hv
  exact ⟨fun hn => hv _ _ (by rw [if_pos hn]), fun hn => ⟨_, Plan.shows_recordValue _ _ hn, hv _ _ (by rw [if_neg hn])⟩⟩

theorem State.leftLeadsTo_of (hv : ∀ t v, finishLeft f px py u = .value t v → value t v)
    (hw : ∀ t st, finishLeft f px py u = .waits t st → waits t st) : u.leftLeadsTo f px py value waits := by
  simp only [finishLeft, ← State.classAt_eq, Frozen.tileOf, Frozen.tw] at hv hw
  refine ⟨fun hu => ?_, fun hu => ?_⟩
  · rw [if_neg hu] at hv hw; exact State.rightLeadsTo_of hv hw
  rw [if_pos hu] at hv hw
  refine State.recordLeadsTo_of (f := f) (px := px - 2) (fun t r hr => ?_) fun t hr => hw _ _ (by rw [hr])
  simp only [hr] at hv hw
  refine ⟨fun hn => ?_, fun hn => ⟨_, Plan.shows_recordValue _ _ hn, hv _ _ (by rw [if_neg hn, readRecord_cmd hr])⟩⟩
  rw [if_pos hn] at hv hw; exact State.rightLeadsTo_of hv hw

theorem State.ownLeadsTo_of (hv : ∀ t v, finishOwn f px py u = .value t v → value t v)
    (hw : ∀ t st, finishOwn f px py u = .waits t st → waits t st) : u.ownLeadsTo f px py value waits := by
  simp only [finishOwn, ← State.classAt_eq] at hv hw
  refine ⟨fun he => hv _ _ (if_pos he), fun he => ?_⟩
  have he' : ¬u.classAt (f.tileOf px py) = .exclude := he
  rw [if_neg he'] at hv hw
  refine State.recordLeadsTo_of (fun t r hr => ?_) fun t hr => hw _ _ (by rw [hr])
  simp only [hr] at hv hw
  refine ⟨fun hn => ⟨_, Plan.shows_recordValue _ _ hn, hv _ _ (by rw [if_pos hn, readRecord_cmd hr]; rfl)⟩,
    fun hn hp => hv _ _ (by rw [if_neg (not_not.mpr hn), if_pos hp]), fun hn hp => ?_⟩
  rw [if_neg (not_not.mpr hn), if_neg hp] at hv hw; exact State.leftLeadsTo_of hv hw

/-- What is to be shown of a pixel holds in each case, whatever its view and stage. -/
theorem State.pixelLeadsTo_of {view : View} {stage : PixelStage} {e : PixelStep}
    (he : e = match view with
      | .coverage => coverPixel f px py u
      | .image => finishPixel f stage px py u)
    (hv : ∀ t v, e = .value t v → value t v) (hw : ∀ t st, e = .waits t st → waits t st) :
    u.pixelLeadsTo view stage f px py value waits := by
  subst he
  cases view with
  | coverage =>
    have := State.recordLeadsTo_of (u := u) (f := f) (px := px) (py := py) (got := fun t r => value t r.n)
      (waits := fun t => waits t .own) (fun t r hr => hv _ _ (by simp only [coverPixel, hr]))
      fun t hr => hw _ _ (by simp only [coverPixel, hr])
    cases stage <;> exact this
  | image =>
    cases stage with
    | own => exact State.ownLeadsTo_of hv hw
    | left => exact State.leftLeadsTo_of hv hw
    | right => exact State.rightLeadsTo_of hv hw

end

/-- What is to be shown of the lanes of a read holds where it holds of what `finishLanes` answers (R128, R129). -/
theorem State.lanesLeadTo_of {done : State → List (BitVec 16) → Prop} {waits : State → ResultRead → Prop}
    (P : State → Prop)
    (hw : ∀ t rd, P (t.setInHand (some (.result rd))) → waits t rd) (n : Nat) :
    ∀ (rd : ResultRead) (u : State),
      (∀ t r, r.lane = rd.lane + n → r.beats = rd.beats → r.offset = rd.offset → r.values.length = rd.values.length + n →
        P (finishLanes 0 r t) → done t r.values) →
      P (finishLanes n rd u) → State.lanesLeadTo done waits n rd u := by
  induction n with
  | zero => exact fun rd u hd h => hd u rd rfl rfl rfl rfl h
  | succ n ih =>
    intro rd u hd h
    have step (t : State) (v : BitVec 16) (hl : finishLane rd u = .value t v) : State.lanesLeadTo done waits n
        { rd with lane := rd.lane + 1, stage := .own, values := rd.values ++ [v] } t := by
      refine ih _ _ (fun t r h1 h2 h3 h4 => hd t r (by rw [h1]; simp; omega) h2 h3 (by rw [h4]; simp; omega)) ?_
      simpa only [finishLanes, hl] using h
    have wait (t : State) (st : PixelStage) (hl : finishLane rd u = .waits t st) : waits t { rd with stage := st } := by
      refine hw _ _ ?_
      simpa only [finishLanes, hl] using h
    simp only [State.lanesLeadTo]
    split
    · next hp =>
      simp only [finishLane, pixelAt, if_pos hp] at step wait
      exact State.pixelLeadsTo_of rfl step wait
    · next hp =>
      simp only [finishLane, pixelAt, if_neg hp] at step
      exact step _ _ rfl

/-! ## Folds (R73 to R90) -/

theorem Table.erase_insert {α : Type} (i : Nat) (v : α) (t : List (Nat × α)) (h : ∀ p ∈ t, p.1 ≠ i) :
    Table.erase (Table.insert i v t) i = t := by
  induction t with
  | nil => simp [Table.insert, Table.erase]
  | cons p rest ih =>
    have hp : p.1 ≠ i := h p (by simp)
    have hr : ∀ q ∈ rest, q.1 ≠ i := fun q hq => h q (List.mem_cons_of_mem _ hq)
    have hf : rest.filter (fun q => decide (q.1 ≠ i)) = rest := List.filter_eq_self.mpr fun q hq => by simpa using hr q hq
    unfold Table.insert
    split
    · simpa [Table.erase, hp] using hr
    · have ih := ih hr
      simp only [Table.erase] at ih
      simp [Table.erase, hp] at ih ⊢
      exact ih

/-- Setting an index twice is setting it once. -/
theorem Table.set_set {α : Type} [DecidableEq α] (d : α) (t : List (Nat × α)) (i : Nat) (v w : α) :
    Table.set d (Table.set d t i v) i w = Table.set d t i w := by
  have he : Table.erase (Table.set d t i v) i = Table.erase t i := by
    unfold Table.set
    split
    · simp [Table.erase]
    · exact Table.erase_insert i v _ fun p hp => (Table.mem_erase.mp hp).2
  unfold Table.set at he ⊢
  rw [he]

theorem filter_cons_filter (i : Nat) (l : List Nat) :
    (i :: l.filter fun k => decide (k ≠ i)).filter (fun k => decide (k ≠ i)) = l.filter fun k => decide (k ≠ i) := by
  simp [List.filter_filter]

/-- A sector that can serve a fold's access serves it: it is held and most recent, holding what `x` holds. -/
theorem State.access_of_servesFold (h : u.servesFold i tile x) :
    u.cache.access true tile (freshRec u.cmd.snap.devinit) = .served { u.cache.setSector i (some { x with held := true }) with
      recency := i :: u.cache.recency.filter fun k => decide (k ≠ i) } i := by
  rcases h with ⟨hk, hs⟩ | ⟨ht, hl, hm, rfl⟩
  · exact TileCache.access_of_keeps hk (by rintro h; rw [h] at hs; simp at hs) true _
  · simp only [TileCache.access, TileCache.holder_of_lacks hl, Bool.or_true, if_true, TileCache.allocate_of_takes ht,
      TileCache.take, hm, Bool.false_eq_true, if_false, TileCache.place, TileCache.serve, TileCache.sector,
      TileCache.setSector, TileCache.toFront, Table.get_set_same, Table.set_set, filter_cons_filter]
    rfl

/-- A sample at its record in a sector that has served it. -/
theorem takeSample_eq (g : Fold) (cls : TileClass) (d : BitVec 16) (pos : Nat) :
    takeSample g cls d i pos (u.setCache { u.cache.setSector i (some { x with held := true }) with
      recency := i :: u.cache.recency.filter fun k => decide (k ≠ i) })
    = u.sampled i pos x ((x.rec_ pos).absorb u.cmd.snap cls g.index (g.values.getD g.column 0) d) := by
  have hs : ({ u.cache.setSector i (some { x with held := true }) with
      recency := i :: u.cache.recency.filter fun k => decide (k ≠ i) } : TileCache).sector i
      = some { x with held := true } := by simp [TileCache.sector, TileCache.setSector]
  have hr : Sector.rec_ { x with held := true } pos = x.rec_ pos := rfl
  unfold takeSample
  simp only [State.setCache_cache, hs, hr, State.setCache_cmd]
  generalize (x.rec_ pos).absorb u.cmd.snap cls g.index (g.values.getD g.column 0) d = e
  obtain ⟨fate, r⟩ := e
  cases fate <;>
    simp [State.sampled, countFate, TileCache.writeRec, TileCache.setSector, TileCache.sector, Table.set_set, Sector.write,
      State.setCache,
      count, State.setRep, State.counter]

/-- What is to be shown of the next sample holds of what `foldSample` answers. -/
theorem State.sampleLeadsTo_of {g : Fold} {ended waits : State → Prop} (hcol : g.column < 32)
    (he : ∀ t, foldSample g u = .ended t → ended t)
    (hw : ∀ t, foldSample g u = .waits t → waits t) : u.sampleLeadsTo g ended waits := by
  have hc (tile : Nat) : u.sampleClass tile = u.classAt tile := (State.classAt_eq tile).symm
  simp only [foldSample, State.route, hc] at he hw
  refine ⟨fun hx => he _ ?_, fun hx hd => he _ ?_, fun hx d hd => ?_⟩
  · have hx : u.classAt (g.row / 32 * u.cmd.snap.tw + g.block) = .exclude := hx
    simp only [hx, if_true]
  · have hx : u.classAt (g.row / 32 * u.cmd.snap.tw + g.block) ≠ .exclude := hx
    simp only [hx, if_false, hd]
  have hx : u.classAt (g.row / 32 * u.cmd.snap.tw + g.block) ≠ .exclude := hx
  simp only [hx, if_false, hd] at he hw
  have hr : (u.sends g g.column = none → u.routeTo g (u.classAt (g.row / 32 * u.cmd.snap.tw + g.block))
        (32 * g.block + g.column) g.row d = .spilled)
      ∧ ∀ tile pos, u.sends g g.column = some (tile, pos) → ∃ px py,
        u.routeTo g (u.classAt (g.row / 32 * u.cmd.snap.tw + g.block)) (32 * g.block + g.column) g.row d
          = .goes (u.classAt (g.row / 32 * u.cmd.snap.tw + g.block)) px py d
        ∧ u.cmd.snap.tileOf px py = tile ∧ tilePosition px py = pos := by
    unfold State.sends State.routeTo
    by_cases ht : u.classAt (g.row / 32 * u.cmd.snap.tw + g.block) = .track
    · have ht' : u.classAt (g.row / 32 * (u.cmd.snap.width.toNat / 32) + g.block) = .track := ht
      simp only [if_pos ht, if_pos ht']
      cases destination u.cmd.snap g.c g.s (32 * g.block + g.column) g.row with
      | none => exact ⟨fun _ => rfl, nofun⟩
      | some q =>
        by_cases hq : u.classOf (u.cmd.snap.tileOf q.1 q.2) = .track
        · have hq' : u.classOf (q.2 / 32 * (u.cmd.snap.width.toNat / 32) + q.1 / 32) = .track := hq
          simp only [if_pos hq, if_pos hq']
          refine ⟨nofun, fun tile pos h => ?_⟩
          cases h
          exact ⟨_, _, rfl, rfl, rfl⟩
        · have hq' : ¬u.classOf (q.2 / 32 * (u.cmd.snap.width.toNat / 32) + q.1 / 32) = .track := hq
          simp only [if_neg hq, if_neg hq']
          exact ⟨fun _ => trivial, nofun⟩
    · have ht' : ¬u.classAt (g.row / 32 * (u.cmd.snap.width.toNat / 32) + g.block) = .track := ht
      simp only [if_neg ht, if_neg ht']
      refine ⟨nofun, fun tile pos h => ?_⟩
      cases h
      exact ⟨_, _, rfl, by simp only [Frozen.tileOf, Frozen.tw]; omega, by simp only [tilePosition]; omega⟩
  refine ⟨fun hn => he _ (by simp only [hr.1 hn]), fun tile pos hs => ?_⟩
  obtain ⟨px, py, hg, rfl, rfl⟩ := hr.2 tile pos hs
  simp only [hg] at he hw
  refine ⟨fun i x hsv => ?_, State.accessWaits_of (byFold := true) (fun c hcw => hw _ (by simp only [hcw]; rfl)) nofun⟩
  rw [← takeSample_eq]
  exact he _ (by simp only [State.access_of_servesFold hsv]; rfl)

/-- What is to be shown of the samples of a fold holds of what `foldSamples` answers (R73, R74). -/
theorem State.samplesLeadTo_of {done : State → Prop} {waits : State → Fold → Prop} (n : Nat) :
    ∀ (g : Fold) (u : State), g.column + n ≤ 32 → (∀ t, foldSamples n g u = (t, none) → done t) →
      (∀ t g', foldSamples n g u = (t, some g') → waits t g') → State.samplesLeadTo done waits n g u := by
  induction n with
  | zero => exact fun g u _ hd _ => hd u rfl
  | succ n ih =>
    intro g u hc hd hw
    refine State.sampleLeadsTo_of (by omega)
      (fun t ht => ih _ _ (by simp only; omega) (fun v hv => hd v ?_) fun v g' hv => hw v g' ?_) fun t ht => hw t g ?_
    · simpa only [foldSamples, ht] using hv
    · simpa only [foldSamples, ht] using hv
    · simp only [foldSamples, ht]

/-! ## Blocks, result reads and the request in hand -/

/-- What is to be shown of a fold holds of what `runFold` answers. -/
def FoldLaw : Prop :=
  ∀ (u : State) (g : Fold) (done : State → Prop) (waits : State → Fold → Prop),
    (∀ t, runFold g u = (t, none) → done t) → (∀ t g', runFold g u = (t, some g') → waits t g') → u.foldLeadsTo g done waits

/-- A block waits just while its fetches are not over. -/
theorem awaits_eq (b : Block) : b.awaits = !b.fetchesOver := by
  obtain ⟨_, _, _, fa, fb, _⟩ := b
  rcases fa with _ | ⟨_, _, sa⟩ <;> rcases fb with _ | ⟨_, _, sb⟩ <;> (try cases sa) <;> (try cases sb) <;>
    simp [Block.awaits, Block.fetchesOver, FetchState.isOver]

/-- The blocks of R51 in the words of Safety.lean. -/
theorem spoiled_eq (b : Block) : b.spoiled = b.isLost := by
  simp only [Block.spoiled, awaits_eq, Block.isLost, Bool.not_not, Block.fetchFailed]

/-- The dark values of a block, column by column. -/
theorem darks_eq (b : Block) : (List.range 32).map b.darkAt = b.darks := by
  refine List.map_congr_left fun col _ => ?_
  rfl

/-- What is to be shown of the blocks of a burst holds of what `foldBlocks` answers, given it for one fold. -/
theorem blocksLeadTo_of (hF : FoldLaw) {out : State → Prop} (bs : List Block) :
    ∀ u : State, out (foldBlocks bs u) → u.blocksLeadTo out bs := by
  induction bs with
  | nil => exact fun u h => h
  | cons b rest ih =>
    intro u h
    rw [foldBlocks] at h
    refine ⟨fun hw => ?_, fun hw sub hs => ?_⟩
    · have : b.fetchesOver = false := by rw [awaits_eq] at hw; simpa using hw
      rw [this] at h; exact h
    · have : b.fetchesOver = true := by rw [awaits_eq] at hw; simpa using hw
      have hb : b.toFold u.hdr.opened = b.foldIn sub := by simp only [Block.toFold, Block.foldIn, hs, darks_eq, Option.elim]
      rw [this, hb] at h
      simp only [if_true] at h
      refine hF _ _ _ _ (fun t ht => ih t ?_) fun t g' ht => ?_
      · rw [ht] at h; exact h
      · rw [ht] at h; exact h

/-- A bit of four values put together. -/
theorem getLsbD_four (d c b a : BitVec 16) (k : Nat) :
    (show BitVec 64 from d ++ c ++ b ++ a).getLsbD k =
      if k < 16 then a.getLsbD k else if k < 32 then b.getLsbD (k - 16)
      else if k < 48 then c.getLsbD (k - 32) else d.getLsbD (k - 48) := by
  change BitVec.getLsbD (d ++ c ++ b ++ a) k = _
  rw [BitVec.getLsbD_append, BitVec.getLsbD_append, BitVec.getLsbD_append]
  repeat' split
  all_goals first | rfl | omega

/-- A bit of two bytes put together. -/
theorem getLsbD_two (b a : BitVec 8) (k : Nat) :
    (show BitVec 16 from b ++ a).getLsbD k = if k < 8 then a.getLsbD k else b.getLsbD (k - 8) := by
  change BitVec.getLsbD (b ++ a) k = _
  rw [BitVec.getLsbD_append]

/-- Each byte of the beats is a byte of its value. -/
theorem bytes_of (n : Nat) : ∀ vs : List (BitVec 16), vs.length = 4 * n → (beatsOf vs).length = n ∧
    ∀ k b, k < n → b < 8 → byteOf ((beatsOf vs)[k]?.getD 0) b = byteOf (vs[(8 * k + b) / 2]?.getD 0) (b % 2) := by
  induction n with
  | zero =>
    intro vs h
    obtain rfl : vs = [] := List.length_eq_zero_iff.mp (by omega)
    exact ⟨rfl, fun k b hk => absurd hk (by omega)⟩
  | succ n ih =>
    intro vs h
    match vs, h with
    | a :: b :: c :: d :: rest, h =>
      have hr : rest.length = 4 * n := by simp at h; omega
      obtain ⟨h1, h2⟩ := ih rest hr
      refine ⟨by simp [beatsOf, h1], fun k j hk hj => ?_⟩
      cases k with
      | zero =>
        simp only [beatsOf]
        have : j = 0 ∨ j = 1 ∨ j = 2 ∨ j = 3 ∨ j = 4 ∨ j = 5 ∨ j = 6 ∨ j = 7 := by omega
        rcases this with rfl | rfl | rfl | rfl | rfl | rfl | rfl | rfl <;>
        · simp only [byteOf]
          apply BitVec.eq_of_getLsbD_eq
          intro i hi
          simp only [BitVec.getLsbD_extractLsb', hi, decide_true, Bool.true_and]
          refine (getLsbD_four d c b a _).trans ?_
          repeat' split
          all_goals first | omega | (simp; try (congr 1; omega))
      | succ k =>
        have := h2 k j (by omega) hj
        have e : (8 * (k + 1) + j) / 2 = (8 * k + j) / 2 + 4 := by omega
        simp only [beatsOf, List.getElem?_cons_succ, e]
        rw [this]

/-- One value fewer than were given. -/
theorem straddle_len : ∀ (n : Nat) (vs : List (BitVec 16)), vs.length = n + 1 → (straddle vs).length = n := by
  intro n
  induction n with
  | zero => intro vs h; match vs, h with | [a], _ => rfl
  | succ n ih =>
    intro vs h
    match vs, h with
    | a :: b :: rest, h => simp only [straddle, List.length_cons]; rw [ih (b :: rest) (by simpa using h)]

/-- Each byte of the values a byte further on is that of the values given. -/
theorem straddle_bytes : ∀ (n : Nat) (vs : List (BitVec 16)), vs.length = n + 1 → ∀ k b, k < n → b < 2 →
    byteOf ((straddle vs)[k]?.getD 0) b = byteOf (vs[(2 * k + b + 1) / 2]?.getD 0) ((b + 1) % 2) := by
  intro n
  induction n with
  | zero => intro vs _ k b hk; omega
  | succ n ih =>
    intro vs h k j hk hj
    match vs, h with
    | a :: b :: rest, h =>
      cases k with
      | zero =>
        have : j = 0 ∨ j = 1 := by omega
        rcases this with rfl | rfl <;>
        · simp only [byteOf, straddle]
          apply BitVec.eq_of_getLsbD_eq
          intro i hi
          simp only [BitVec.getLsbD_extractLsb', hi, decide_true, Bool.true_and]
          refine (getLsbD_two _ _ _).trans ?_
          repeat' split
          all_goals first | omega | (simp [BitVec.getLsbD_extractLsb']; try omega)
      | succ k =>
        have := ih (b :: rest) (by simpa using h) k j (by omega) hj
        have e : (2 * (k + 1) + j + 1) / 2 = (2 * k + j + 1) / 2 + 1 := by omega
        simp only [straddle, List.getElem?_cons_succ, e]
        rw [this]

/-- The beats of a read, byte by byte (R128). -/
theorem answer_bytes (rd : ResultRead) (h : rd.values.length = 4 * rd.beats + rd.offset % 2) :
    rd.answerBeats.length = rd.beats ∧ ∀ k b, k < rd.beats → b < 8 →
        byteOf (rd.answerBeats[k]?.getD 0) b =
          byteOf (rd.values[(rd.offset % 2 + 8 * k + b) / 2]?.getD 0) ((rd.offset % 2 + 8 * k + b) % 2) := by
  unfold ResultRead.answerBeats
  rcases Nat.mod_two_eq_zero_or_one rd.offset with h0 | h0
  · rw [if_pos h0]
    obtain ⟨h1, h2⟩ := bytes_of rd.beats rd.values (by omega)
    refine ⟨h1, fun k b hk hb => ?_⟩
    rw [h2 k b hk hb, h0, Nat.zero_add]
    congr 1; omega
  · rw [if_neg (by omega)]
    have hl : (straddle rd.values).length = 4 * rd.beats := straddle_len _ _ (by omega)
    obtain ⟨h1, h2⟩ := bytes_of rd.beats (straddle rd.values) hl
    refine ⟨h1, fun k b hk hb => ?_⟩
    rw [h2 k b hk hb, straddle_bytes (4 * rd.beats) rd.values (by omega) _ _ (by omega) (by omega), h0]
    have e1 : (2 * ((8 * k + b) / 2) + b % 2 + 1) / 2 = (1 + 8 * k + b) / 2 := by omega
    have e2 : (b % 2 + 1) % 2 = (1 + 8 * k + b) % 2 := by omega
    rw [e1, e2]

/-- What is to be shown of a result read holds of what `runRead` answers. -/
theorem readLeadsTo_of {rd : ResultRead} {out : State → Prop} (h : out (runRead rd u)) :
    u.readLeadsTo rd (fun m beats => out (m.readEnds beats)) fun v r => out { v with inHand := some (.result r) } := by
  intro hv hl
  refine State.lanesLeadTo_of out (fun t r h => h) _ rd u (fun t r h1 h2 h3 h4 hp => ⟨r.answerBeats, ?_⟩) h
  have hlen : r.values.length = 4 * r.beats + r.offset % 2 := by rw [h4, h2, h3]; omega
  obtain ⟨e1, e2⟩ := answer_bytes r hlen
  refine ⟨by rw [e1, h2], fun k b hk hb => ?_, hp⟩
  rw [e2 k b (by omega) hb, h3]

/-- What is to be shown of the request in hand holds of what `resumeHand` answers, given it for one fold. -/
theorem handLeadsTo_of (hF : FoldLaw) {out : State → Prop} (h : out (resumeHand u)) : u.handLeadsTo out := by
  have hbusy : (u.cache.fill ≠ none ∨ ∃ w, u.cache.writeback = some w ∧ w.forFlush = false)
      ↔ u.cache.isBusy = true := by
    unfold TileCache.isBusy
    cases u.cache.fill <;> cases u.cache.writeback <;> simp
  unfold State.handLeadsTo
  simp only [hbusy]
  cases hh : u.inHand with
  | none => simpa [resumeHand, busyHand, hh] using h
  | some x =>
    cases x with
    | through r p => simpa [resumeHand, busyHand, hh] using h
    | header => simpa [resumeHand, busyHand, hh] using h
    | result rd =>
      refine ⟨fun hb => by simpa [resumeHand, busyHand, hh, hb] using h, fun hb => readLeadsTo_of ?_⟩
      simpa [resumeHand, hh, hb] using h
    | capture cap =>
      have hd : discardLost cap.blocks u = if cap.blocks.countP Block.spoiled = 0 then u else
          raise .memoryFault (count .darkReadErrors (cap.blocks.countP Block.spoiled) u) := by
        simp only [discardLost, List.countP_eq_length_filter, funext spoiled_eq]
      simp only [← hd, spoiled_eq]
      have hc : (cap.blocks.filter fun b => !b.isLost) = cap.blocks.filter fun b => !b.isLost := rfl
      refine ⟨fun hb => ?_, fun hb hn => blocksLeadTo_of hF _ _ ?_,
        fun hb g hg => hF _ _ _ _ (fun t ht => blocksLeadTo_of hF _ _ ?_) fun t g' ht => ?_⟩
      · simpa [resumeHand, hb, busyHand, hh, State.setInHand] using h
      · have hb' : u.cache.isBusy = false := by simpa using hb
        simpa [resumeHand, hb', hh, runCapture, hn] using h
      · have hb' : u.cache.isBusy = false := by simpa using hb
        simpa [resumeHand, hb', hh, runCapture, hg, ht] using h
      · have hb' : u.cache.isBusy = false := by simpa using hb
        simpa [resumeHand, hb', hh, runCapture, hg, ht, State.setInHand] using h

end Sys2Proof.Machine
end

