-- ==== Sys2Proof/Laws/Windows.lean ====
section
/-! SUPPORT. Laws/Windows.lean: what it says of an address that it lies in a window, and of a request that it passes the
tests of R167. -/

namespace Sys2Proof.Machine

variable {s : State} {r : Request}

theorem Region.contains_iff (t : Region) (a : Nat) : t.contains a = true ↔ t.base ≤ a ∧ a < t.base + t.size := by
  simp [Region.contains]

/-- A byte in a window other than `pass` lies in that window's region of the active set. -/
theorem windowOf_mem {a : Nat} {w : Window} (h : s.windowOf a = w) (hw : w ≠ .pass) :
    ∃ t, (w, t) ∈ s.windowRegions ∧ t.contains a = true := by
  unfold State.windowOf at h
  cases hf : s.windowRegions.find? fun p => p.2.contains a with
  | none => rw [hf] at h; exact absurd h.symm hw
  | some p =>
    rw [hf] at h
    obtain ⟨w', t⟩ := p
    obtain rfl : w' = w := h
    exact ⟨t, List.mem_of_find?_eq_some hf, by simpa using List.find?_some hf⟩

/-- The plan page is the first window: a byte is in it exactly when it lies in its 4096 bytes (R168, R170). -/
theorem windowOf_plan {a : Nat} : s.windowOf a = .plan ↔ s.planBase.toNat ≤ a ∧ a < s.planBase.toNat + 4096 := by
  constructor
  · intro h
    obtain ⟨t, ht, ha⟩ := windowOf_mem h (by decide)
    have : t = ⟨s.planBase.toNat, 4096⟩ := by
      simp only [State.windowRegions, List.mem_append, List.mem_cons, Prod.mk.injEq, List.not_mem_nil, or_false] at ht
      rcases ht with ((((h | h) | h) | h) | h) | h <;> (try split at h) <;> simp_all
    rw [this, Region.contains_iff] at ha
    exact ha
  · rintro ⟨h1, h2⟩
    simp [State.windowOf, State.windowRegions, Region.contains, h1, h2]

/-- The report page is the second window, directly after the plan page (R168, R170). -/
theorem windowOf_report {a : Nat} :
    s.windowOf a = .report ↔ s.planBase.toNat + 4096 ≤ a ∧ a < s.planBase.toNat + 8192 := by
  constructor
  · intro h
    obtain ⟨t, ht, ha⟩ := windowOf_mem h (by decide)
    have : t = ⟨s.planBase.toNat + 4096, 4096⟩ := by
      simp only [State.windowRegions, List.mem_append, List.mem_cons, Prod.mk.injEq, List.not_mem_nil, or_false] at ht
      rcases ht with ((((h | h) | h) | h) | h) | h <;> (try split at h) <;> simp_all
    rw [this, Region.contains_iff] at ha
    simp only at ha
    omega
  · rintro ⟨h1, h2⟩
    have h3 : ¬ a < s.planBase.toNat + 4096 := by omega
    have h4 : a < s.planBase.toNat + 4096 + 4096 := by omega
    simp [State.windowOf, State.windowRegions, Region.contains, h1, h3, h4]

/-- A byte in the capture window lies in the capture region, which is then in the set (R169). -/
theorem windowOf_capture {a : Nat} (h : s.windowOf a = .capture) :
    s.hasCapture = true ∧ s.active.captureRegion.contains a = true := by
  obtain ⟨t, ht, ha⟩ := windowOf_mem h (by decide)
  simp only [State.windowRegions, List.mem_append, List.mem_cons, Prod.mk.injEq, List.not_mem_nil, or_false] at ht
  rcases ht with ((((h | h) | h) | h) | h) | h <;> (try split at h) <;> simp_all

/-- A byte in the image view lies in its region, and the geometry is in the set (R169). -/
theorem windowOf_image {a : Nat} (h : s.windowOf a = .image) :
    s.hasGeometry = true ∧ s.active.imageRegion.contains a = true := by
  obtain ⟨t, ht, ha⟩ := windowOf_mem h (by decide)
  simp only [State.windowRegions, List.mem_append, List.mem_cons, Prod.mk.injEq, List.not_mem_nil, or_false] at ht
  rcases ht with ((((h | h) | h) | h) | h) | h <;> (try split at h) <;> simp_all

/-- A byte in the coverage view lies in its region, and the geometry is in the set (R169). -/
theorem windowOf_coverage {a : Nat} (h : s.windowOf a = .coverage) :
    s.hasGeometry = true ∧ s.active.coverageRegion.contains a = true := by
  obtain ⟨t, ht, ha⟩ := windowOf_mem h (by decide)
  simp only [State.windowRegions, List.mem_append, List.mem_cons, Prod.mk.injEq, List.not_mem_nil, or_false] at ht
  rcases ht with ((((h | h) | h) | h) | h) | h <;> (try split at h) <;> simp_all

/-- The five tests of R167. -/
theorem refuses_eq_false (h : s.refuses r = false) :
    r.addr.toNat % 8 = 0 ∧ 1 ≤ r.beatCount ∧ r.beatCount ≤ 16 ∧ r.addr.toNat + 8 * r.beatCount ≤ memoryEnd
      ∧ r.addr.toNat / 4096 = (r.addr.toNat + 8 * r.beatCount - 1) / 4096
      ∧ ∀ i, i < 8 * r.beatCount → s.windowOf (r.addr.toNat + i) = s.windowOf r.addr.toNat := by
  simp only [State.refuses, goodCount, Bool.or_eq_false_iff, Bool.not_eq_false', List.all_eq_true, List.mem_range,
    decide_eq_true_eq, decide_eq_false_iff_not, Decidable.not_not, Nat.not_lt] at h
  exact ⟨h.1.1.1.1, h.1.1.1.2.1, h.1.1.1.2.2, h.1.1.2, h.1.2, h.2⟩

/-- The offset in the plan page of a write that is taken there (R168). -/
theorem planAddr_sub {off : Nat} (ho : off < 4096) (hw : s.windowOf (s.planAddr off).toNat = .plan) :
    (s.planAddr off).toNat - s.planBase.toNat = off := by
  have h := windowOf_plan.mp hw
  have e : (s.planAddr off).toNat = (s.planBase.toNat + off) % 2 ^ 32 := by simp [State.planAddr, BitVec.toNat_add]
  have := s.planBase.isLt
  omega

/-- The offset in the report page of a read that is taken there (R168). -/
theorem reportAddr_sub {off : Nat} (ho : off < 4096) (hw : s.windowOf (s.reportAddr off).toNat = .report) :
    (s.reportAddr off).toNat - (s.planBase.toNat + 4096) = off := by
  have h := windowOf_report.mp hw
  have e : (s.reportAddr off).toNat = (s.planBase.toNat + (4096 + off)) % 2 ^ 32 := by
    simp [State.reportAddr, BitVec.toNat_add]
  have := s.planBase.isLt
  omega

end Sys2Proof.Machine
end

