-- ==== Sys2Proof/Laws/Snoop.lean ====
section
/-! SUPPORT. Laws/Snoop.lean: what the snoop of a plan write comes to for each kind of burst (R144, R180, R190). -/

namespace Sys2Proof.Machine

variable {s : State}

/-- The strobed bytes of a burst lie in its beats. -/
theorem strobedBytes_range {off : Nat} {beats : List Beat} {p : Nat × Byte} (h : p ∈ strobedBytes off beats) :
    off ≤ p.1 ∧ p.1 < off + 8 * beats.length := by
  induction beats generalizing off with
  | nil => cases h
  | cons b rest ih =>
    rw [strobedBytes, List.mem_append] at h
    rcases h with h | h
    · obtain ⟨k, hk, rfl⟩ := List.mem_map.mp h
      have := List.mem_range.mp (List.mem_filter.mp hk).1
      simp only [List.length_cons]; omega
    · have := ih h
      simp only [List.length_cons]; omega

/-- A burst below the class window changes no class entry and counts nothing (R6). -/
theorem classWrite_below {page : BitVec 8} {bytes : List (Nat × Byte)} (h : ∀ p ∈ bytes, p.1 < 0x800) (t : State) :
    classWrite page bytes t = t := by
  unfold classWrite
  have : bytes.filter (fun p => decide (0x800 ≤ p.1)) = [] := by
    rw [List.filter_eq_nil_iff]; intro p hp; have := h p hp; simp; omega
  rw [if_pos this]

/-- A burst that strobes no byte of the event clear word has a clear word of 0 (R190). -/
theorem clearWordOf_none {bytes : List (Nat × Byte)} (h : ∀ p ∈ bytes, ¬(4 ≤ p.1 ∧ p.1 < 8)) : clearWordOf bytes = 0 := by
  unfold clearWordOf
  generalize (0 : BitVec 32) = z
  induction bytes generalizing z with
  | nil => rfl
  | cons p rest ih =>
    rw [List.foldl_cons, if_neg (h p (by simp))]
    exact ih (fun q hq => h q (List.mem_cons_of_mem _ hq)) z

/-- A clear word of 0 changes nothing (R190). -/
theorem clearEvents_zero (t : State) : clearEvents 0 t = t := by
  have h0 : ~~~((0 : BitVec 32).setWidth 9) = BitVec.allOnes 9 := by decide
  have : t.rep.raised &&& ~~~((0 : BitVec 32).setWidth 9) = t.rep.raised := by rw [h0, BitVec.and_allOnes]
  unfold clearEvents
  rw [this]
  rfl

/-- The command a command-word burst carries (R144). -/
theorem commandOf_commandBeats (code : BitVec 16) (b : CommandBurst) :
    commandOf 0 (commandBeats code b) = some (code, b.arg) := by
  have h1 : (b.clearStrobes ++ (0xF : BitVec 4)).extractLsb' 0 4 = 0xF := by
    ext i hi
    simp only [BitVec.getElem_extractLsb', BitVec.getLsbD_append]
    rw [if_pos (by omega), Nat.zero_add, BitVec.getLsbD_eq_getElem hi]
  have h2 : (b.clear ++ b.arg ++ code).extractLsb' 0 16 = code := by
    ext i hi
    simp only [BitVec.getElem_extractLsb', BitVec.getLsbD_append]
    rw [if_pos (by omega), Nat.zero_add, BitVec.getLsbD_eq_getElem hi]
  have h3 : (b.clear ++ b.arg ++ code).extractLsb' 16 16 = b.arg := by
    ext i hi
    simp only [BitVec.getElem_extractLsb', BitVec.getLsbD_append]
    rw [if_neg (by omega), if_pos (by omega), BitVec.getLsbD_eq_getElem (by omega)]
    congr 1; omega
  simp only [commandBeats, commandBeat, commandOf, h1, h2, h3, and_self, if_true]

/-- A plan write that is taken: the snoop of its burst, and the request carried on to DRAM (R171, R180). -/
theorem arrive_plan {off : Nat} {beats : List Beat} (ho : off < 4096) (h : s.takesPlan (.write (s.planAddr off) beats)) :
    arrive (.write (s.planAddr off) beats) s
      = ((snoop off beats s).carrying (.write (s.planAddr off) beats)).setWaiting [] := by
  rw [arrive_takesIn h.1]
  simp only [takeInWindow, takeThrough, h.2, planAddr_sub ho h.1.2.2.2]
  rfl

/-- A command-word burst that is taken: the other fields of the burst, then the command (R144, R180, R190). -/
theorem snoop_command {code : BitVec 16} {b : CommandBurst} (h : s.takesPlan (commandRequest code b s)) :
    snoop 0 (commandBeats code b) s = takeCommand code b.arg (s.afterFields code b) := by
  have hlen := (refuses_eq_false h.1.2.2.1).2.2.1
  have hc : ∀ t : State, classWrite s.cmd.plan.classPage (strobedBytes 0 (commandBeats code b)) t = t := fun t =>
    classWrite_below (fun p hp => by
      have := strobedBytes_range hp
      simp only [commandRequest, Request.beatCount] at hlen
      omega) t
  unfold snoop
  simp only [commandOf_commandBeats, hc]
  rfl

/-- A command row whose burst is taken: the command's effect, the write carried to DRAM, nothing left waiting. -/
theorem arrive_command {code : BitVec 16} {b : CommandBurst} (h : s.takesPlan (commandRequest code b s)) :
    arrive (commandRequest code b s) s
      = ((takeCommand code b.arg (s.afterFields code b)).carrying (commandRequest code b s)).setWaiting [] := by
  rw [← snoop_command h]
  exact arrive_plan (by omega) h

/-- A command word taken in READY is judged with its record written, pending (R145, R146). -/
theorem takeCommand_ready {code : BitVec 16} {b : CommandBurst} (h : s.cmd.inFlight = none) :
    takeCommand code b.arg (s.afterFields code b) = judge code b.arg (s.atCommand code b) := by
  have : (s.afterFields code b).cmd.inFlight = none := h
  simp only [takeCommand, this]
  rfl

/-! ## The judge of each command code (R147) -/

theorem judge_start (arg : BitVec 16) (t : State) : judge startCode arg t = judgeStart arg t := rfl
theorem judge_end (arg : BitVec 16) (t : State) : judge endCode arg t = judgeEnd arg t := rfl
theorem judge_checkpoint (arg : BitVec 16) (t : State) : judge checkpointCode arg t = judgeCheckpoint arg t := rfl
theorem judge_resume (arg : BitVec 16) (t : State) : judge resumeCode arg t = judgeResume arg t := rfl
theorem judge_commitDark (arg : BitVec 16) (t : State) : judge commitDarkCode arg t = judgeCommitDark arg t := rfl
theorem judge_dropDark (arg : BitVec 16) (t : State) : judge dropDarkCode arg t = judgeDropDark arg t := rfl
theorem judge_adoptLibrary (arg : BitVec 16) (t : State) : judge adoptLibraryCode arg t = judgeAdoptLibrary arg t := rfl
theorem judge_abort (arg : BitVec 16) (t : State) : judge abortCode arg t = finishCommand .done (abortEffects t) := rfl

/-- A code that names no command is refused BAD_COMMAND (R147). -/
theorem judge_unnamed {code : BitVec 16} (h : isNamedCode code = false) (arg : BitVec 16) (t : State) :
    judge code arg t = finishCommand .badCommand t := by
  simp only [isNamedCode, List.contains_cons, List.contains_nil, Bool.or_false, Bool.or_eq_false_iff, beq_eq_false_iff_ne] at h
  obtain ⟨h1, h2, h3, h4, h5, h6, h7, h8⟩ := h
  unfold judge
  rw [if_neg h1, if_neg h2, if_neg h3, if_neg h4, if_neg h5, if_neg h6, if_neg h7, if_neg h8]

end Sys2Proof.Machine
end

