-- ==== Sys2Proof/Laws/Words.lean ====
section
/-! SUPPORT. Laws/Words.lean: what the states the statements are written with (Safety.lean) hold in every field, and what
an accepted START and the restoration of RESUME hold in the blocks they write. -/

namespace Sys2Proof.Machine

variable (s : State)

/-! ## A request carried -/

@[simp] theorem State.carrying_resetLow (r : Request) : (s.carrying r).resetLow = s.resetLow := rfl
@[simp] theorem State.carrying_planBase (r : Request) : (s.carrying r).planBase = s.planBase := rfl
@[simp] theorem State.carrying_inHand (r : Request) : (s.carrying r).inHand = some (.through r false) := rfl
@[simp] theorem State.carrying_waiting (r : Request) : (s.carrying r).waiting = s.waiting := rfl
@[simp] theorem State.carrying_answers (r : Request) : (s.carrying r).answers = s.answers := rfl
@[simp] theorem State.carrying_hdr (r : Request) : (s.carrying r).hdr = s.hdr := rfl
@[simp] theorem State.carrying_dark (r : Request) : (s.carrying r).dark = s.dark := rfl
@[simp] theorem State.carrying_rot (r : Request) : (s.carrying r).rot = s.rot := rfl
@[simp] theorem State.carrying_cache (r : Request) : (s.carrying r).cache = s.cache := rfl
@[simp] theorem State.carrying_cmd (r : Request) : (s.carrying r).cmd = s.cmd := rfl
@[simp] theorem State.carrying_rep (r : Request) : (s.carrying r).rep = s.rep := rfl
@[simp] theorem State.carrying_arb (r : Request) : (s.carrying r).arb = s.arb := rfl
@[simp] theorem State.carrying_bulk (r : Request) : (s.carrying r).bulk = s.bulk := rfl
@[simp] theorem State.carrying_classes (r : Request) : (s.carrying r).classes = s.classes := rfl
@[simp] theorem State.carrying_pending (r : Request) : (s.carrying r).pending = s.pending := rfl

/-! ## An answer given -/

@[simp] theorem State.answering_resetLow (r : Response) (b : List (BitVec 64)) : (s.answering r b).resetLow = s.resetLow := rfl
@[simp] theorem State.answering_planBase (r : Response) (b : List (BitVec 64)) : (s.answering r b).planBase = s.planBase := rfl
@[simp] theorem State.answering_inHand (r : Response) (b : List (BitVec 64)) : (s.answering r b).inHand = s.inHand := rfl
@[simp] theorem State.answering_waiting (r : Response) (b : List (BitVec 64)) : (s.answering r b).waiting = s.waiting := rfl
@[simp] theorem State.answering_answers (r : Response) (b : List (BitVec 64)) : (s.answering r b).answers =
    s.answers ++ [⟨r, b⟩] := rfl
@[simp] theorem State.answering_hdr (r : Response) (b : List (BitVec 64)) : (s.answering r b).hdr = s.hdr := rfl
@[simp] theorem State.answering_dark (r : Response) (b : List (BitVec 64)) : (s.answering r b).dark = s.dark := rfl
@[simp] theorem State.answering_rot (r : Response) (b : List (BitVec 64)) : (s.answering r b).rot = s.rot := rfl
@[simp] theorem State.answering_cache (r : Response) (b : List (BitVec 64)) : (s.answering r b).cache = s.cache := rfl
@[simp] theorem State.answering_cmd (r : Response) (b : List (BitVec 64)) : (s.answering r b).cmd = s.cmd := rfl
@[simp] theorem State.answering_rep (r : Response) (b : List (BitVec 64)) : (s.answering r b).rep = s.rep := rfl
@[simp] theorem State.answering_arb (r : Response) (b : List (BitVec 64)) : (s.answering r b).arb = s.arb := rfl
@[simp] theorem State.answering_bulk (r : Response) (b : List (BitVec 64)) : (s.answering r b).bulk = s.bulk := rfl
@[simp] theorem State.answering_classes (r : Response) (b : List (BitVec 64)) : (s.answering r b).classes = s.classes := rfl
@[simp] theorem State.answering_pending (r : Response) (b : List (BitVec 64)) : (s.answering r b).pending = s.pending := rfl

/-! ## A transaction ended -/

@[simp] theorem State.landed_resetLow (i : Nat) : (s.landed i).resetLow = s.resetLow := rfl
@[simp] theorem State.landed_planBase (i : Nat) : (s.landed i).planBase = s.planBase := rfl
@[simp] theorem State.landed_inHand (i : Nat) : (s.landed i).inHand = s.inHand := rfl
@[simp] theorem State.landed_waiting (i : Nat) : (s.landed i).waiting = s.waiting := rfl
@[simp] theorem State.landed_answers (i : Nat) : (s.landed i).answers = s.answers := rfl
@[simp] theorem State.landed_hdr (i : Nat) : (s.landed i).hdr = s.hdr := rfl
@[simp] theorem State.landed_dark (i : Nat) : (s.landed i).dark = s.dark := rfl
@[simp] theorem State.landed_rot (i : Nat) : (s.landed i).rot = s.rot := rfl
@[simp] theorem State.landed_cache (i : Nat) : (s.landed i).cache = s.cache := rfl
@[simp] theorem State.landed_cmd (i : Nat) : (s.landed i).cmd = s.cmd := rfl
@[simp] theorem State.landed_rep (i : Nat) : (s.landed i).rep = s.rep := rfl
@[simp] theorem State.landed_arb (i : Nat) : (s.landed i).arb =
    { s.arb with inFlight := s.arb.inFlight.eraseIdx i } := rfl
@[simp] theorem State.landed_bulk (i : Nat) : (s.landed i).bulk = s.bulk := rfl
@[simp] theorem State.landed_classes (i : Nat) : (s.landed i).classes = s.classes := rfl
@[simp] theorem State.landed_pending (i : Nat) : (s.landed i).pending = s.pending := rfl

/-! ## A long command accepted -/

@[simp] theorem State.accepted_resetLow (c : LongCommand) (arg : BitVec 16) : (s.accepted c arg).resetLow = s.resetLow := rfl
@[simp] theorem State.accepted_planBase (c : LongCommand) (arg : BitVec 16) : (s.accepted c arg).planBase = s.planBase := rfl
@[simp] theorem State.accepted_inHand (c : LongCommand) (arg : BitVec 16) : (s.accepted c arg).inHand = s.inHand := rfl
@[simp] theorem State.accepted_waiting (c : LongCommand) (arg : BitVec 16) : (s.accepted c arg).waiting = s.waiting := rfl
@[simp] theorem State.accepted_answers (c : LongCommand) (arg : BitVec 16) : (s.accepted c arg).answers = s.answers := rfl
@[simp] theorem State.accepted_hdr (c : LongCommand) (arg : BitVec 16) : (s.accepted c arg).hdr = s.hdr := rfl
@[simp] theorem State.accepted_dark (c : LongCommand) (arg : BitVec 16) : (s.accepted c arg).dark = s.dark := rfl
@[simp] theorem State.accepted_rot (c : LongCommand) (arg : BitVec 16) : (s.accepted c arg).rot = s.rot := rfl
@[simp] theorem State.accepted_cache (c : LongCommand) (arg : BitVec 16) : (s.accepted c arg).cache = s.cache := rfl
@[simp] theorem State.accepted_cmd (c : LongCommand) (arg : BitVec 16) : (s.accepted c arg).cmd =
    { s.cmd with inFlight := some (c, arg) } := rfl
@[simp] theorem State.accepted_rep (c : LongCommand) (arg : BitVec 16) : (s.accepted c arg).rep = s.rep := rfl
@[simp] theorem State.accepted_arb (c : LongCommand) (arg : BitVec 16) : (s.accepted c arg).arb = s.arb := rfl
@[simp] theorem State.accepted_bulk (c : LongCommand) (arg : BitVec 16) : (s.accepted c arg).bulk = s.bulk := rfl
@[simp] theorem State.accepted_classes (c : LongCommand) (arg : BitVec 16) : (s.accepted c arg).classes = s.classes := rfl
@[simp] theorem State.accepted_pending (c : LongCommand) (arg : BitVec 16) : (s.accepted c arg).pending = s.pending := rfl

/-! ## An outcome written -/

@[simp] theorem State.withOutcome_resetLow (o : CommandOutcome) : (s.withOutcome o).resetLow = s.resetLow := rfl
@[simp] theorem State.withOutcome_planBase (o : CommandOutcome) : (s.withOutcome o).planBase = s.planBase := rfl
@[simp] theorem State.withOutcome_inHand (o : CommandOutcome) : (s.withOutcome o).inHand = s.inHand := rfl
@[simp] theorem State.withOutcome_waiting (o : CommandOutcome) : (s.withOutcome o).waiting = s.waiting := rfl
@[simp] theorem State.withOutcome_answers (o : CommandOutcome) : (s.withOutcome o).answers = s.answers := rfl
@[simp] theorem State.withOutcome_hdr (o : CommandOutcome) : (s.withOutcome o).hdr = s.hdr := rfl
@[simp] theorem State.withOutcome_dark (o : CommandOutcome) : (s.withOutcome o).dark = s.dark := rfl
@[simp] theorem State.withOutcome_rot (o : CommandOutcome) : (s.withOutcome o).rot = s.rot := rfl
@[simp] theorem State.withOutcome_cache (o : CommandOutcome) : (s.withOutcome o).cache = s.cache := rfl
@[simp] theorem State.withOutcome_cmd (o : CommandOutcome) : (s.withOutcome o).cmd =
    { s.cmd with inFlight := none, record := { s.cmd.record with outcome := some o } } := rfl
@[simp] theorem State.withOutcome_rep (o : CommandOutcome) : (s.withOutcome o).rep =
    { s.rep with raised := s.rep.raised ||| 4 } := rfl
@[simp] theorem State.withOutcome_arb (o : CommandOutcome) : (s.withOutcome o).arb = s.arb := rfl
@[simp] theorem State.withOutcome_bulk (o : CommandOutcome) : (s.withOutcome o).bulk = s.bulk := rfl
@[simp] theorem State.withOutcome_classes (o : CommandOutcome) : (s.withOutcome o).classes = s.classes := rfl
@[simp] theorem State.withOutcome_pending (o : CommandOutcome) : (s.withOutcome o).pending = s.pending := rfl

/-! ## The fields of a command-word burst -/

@[simp] theorem State.afterFields_resetLow (code : BitVec 16) (b : CommandBurst) : (s.afterFields code b).resetLow = s.resetLow := rfl
@[simp] theorem State.afterFields_planBase (code : BitVec 16) (b : CommandBurst) : (s.afterFields code b).planBase = s.planBase := rfl
@[simp] theorem State.afterFields_inHand (code : BitVec 16) (b : CommandBurst) : (s.afterFields code b).inHand = s.inHand := rfl
@[simp] theorem State.afterFields_waiting (code : BitVec 16) (b : CommandBurst) : (s.afterFields code b).waiting = s.waiting := rfl
@[simp] theorem State.afterFields_answers (code : BitVec 16) (b : CommandBurst) : (s.afterFields code b).answers = s.answers := rfl
@[simp] theorem State.afterFields_hdr (code : BitVec 16) (b : CommandBurst) : (s.afterFields code b).hdr = s.hdr := rfl
@[simp] theorem State.afterFields_dark (code : BitVec 16) (b : CommandBurst) : (s.afterFields code b).dark = s.dark := rfl
@[simp] theorem State.afterFields_rot (code : BitVec 16) (b : CommandBurst) : (s.afterFields code b).rot = s.rot := rfl
@[simp] theorem State.afterFields_cache (code : BitVec 16) (b : CommandBurst) : (s.afterFields code b).cache = s.cache := rfl
@[simp] theorem State.afterFields_cmd (code : BitVec 16) (b : CommandBurst) : (s.afterFields code b).cmd =
    { s.cmd with plan := (strobedBytes 0 (commandBeats code b)).foldl Plan.setByte s.cmd.plan } := rfl
@[simp] theorem State.afterFields_rep (code : BitVec 16) (b : CommandBurst) : (s.afterFields code b).rep =
    { s.rep with raised := s.rep.raised &&& ~~~((clearWordOf (strobedBytes 0 (commandBeats code b))).setWidth 9) } := rfl
@[simp] theorem State.afterFields_arb (code : BitVec 16) (b : CommandBurst) : (s.afterFields code b).arb = s.arb := rfl
@[simp] theorem State.afterFields_bulk (code : BitVec 16) (b : CommandBurst) : (s.afterFields code b).bulk = s.bulk := rfl
@[simp] theorem State.afterFields_classes (code : BitVec 16) (b : CommandBurst) : (s.afterFields code b).classes = s.classes := rfl
@[simp] theorem State.afterFields_pending (code : BitVec 16) (b : CommandBurst) : (s.afterFields code b).pending = s.pending := rfl

/-! ## A command taken -/

@[simp] theorem State.atCommand_resetLow (code : BitVec 16) (b : CommandBurst) : (s.atCommand code b).resetLow = s.resetLow := rfl
@[simp] theorem State.atCommand_planBase (code : BitVec 16) (b : CommandBurst) : (s.atCommand code b).planBase = s.planBase := rfl
@[simp] theorem State.atCommand_inHand (code : BitVec 16) (b : CommandBurst) : (s.atCommand code b).inHand = s.inHand := rfl
@[simp] theorem State.atCommand_waiting (code : BitVec 16) (b : CommandBurst) : (s.atCommand code b).waiting = s.waiting := rfl
@[simp] theorem State.atCommand_answers (code : BitVec 16) (b : CommandBurst) : (s.atCommand code b).answers = s.answers := rfl
@[simp] theorem State.atCommand_hdr (code : BitVec 16) (b : CommandBurst) : (s.atCommand code b).hdr = s.hdr := rfl
@[simp] theorem State.atCommand_dark (code : BitVec 16) (b : CommandBurst) : (s.atCommand code b).dark = s.dark := rfl
@[simp] theorem State.atCommand_rot (code : BitVec 16) (b : CommandBurst) : (s.atCommand code b).rot = s.rot := rfl
@[simp] theorem State.atCommand_cache (code : BitVec 16) (b : CommandBurst) : (s.atCommand code b).cache = s.cache := rfl
@[simp] theorem State.atCommand_cmd (code : BitVec 16) (b : CommandBurst) : (s.atCommand code b).cmd =
    { (s.afterFields code b).cmd with taken := s.cmd.taken + 1, record := ⟨code, b.arg, none, 0⟩ } := rfl
@[simp] theorem State.atCommand_rep (code : BitVec 16) (b : CommandBurst) : (s.atCommand code b).rep =
    (s.afterFields code b).rep := rfl
@[simp] theorem State.atCommand_arb (code : BitVec 16) (b : CommandBurst) : (s.atCommand code b).arb = s.arb := rfl
@[simp] theorem State.atCommand_bulk (code : BitVec 16) (b : CommandBurst) : (s.atCommand code b).bulk = s.bulk := rfl
@[simp] theorem State.atCommand_classes (code : BitVec 16) (b : CommandBurst) : (s.atCommand code b).classes = s.classes := rfl
@[simp] theorem State.atCommand_pending (code : BitVec 16) (b : CommandBurst) : (s.atCommand code b).pending = s.pending := rfl

/-! ## The blocks an accepted START writes (R152, R153) -/

@[simp] theorem startRun_cmd (m : RunMode) : (startRun m s).cmd =
    { s.cmd with snap := clampParams s.cmd.plan.frozen, mode := m, run := .running } := by
  simp only [startRun, State.setRep_cmd, State.setCache_cmd, State.setDark_cmd, State.setRot_cmd,
    State.setHdr_cmd, State.setCmd_cmd]
@[simp] theorem startRun_hdr (m : RunMode) : (startRun m s).hdr =
    s.hdr.started := by
  simp only [startRun, State.setRep_hdr, State.setCache_hdr, State.setDark_hdr, State.setRot_hdr, State.setHdr_hdr]
@[simp] theorem startRun_rot (m : RunMode) : (startRun m s).rot =
    { s.rot with t0 := 0, t0Set := false } := by
  simp only [startRun, State.setRep_rot, State.setCache_rot, State.setDark_rot, State.setRot_rot]
@[simp] theorem startRun_dark (m : RunMode) : (startRun m s).dark =
    { s.dark with tempSum := 0, eref := 0, erefSet := false } := by
  simp only [startRun, State.setRep_dark, State.setCache_dark, State.setDark_dark]
@[simp] theorem startRun_cache (m : RunMode) : (startRun m s).cache =
    { s.cache.clear with firstFillError := none } := by
  simp only [startRun, State.setRep_cache, State.setCache_cache]
@[simp] theorem startRun_rep (m : RunMode) : (startRun m s).rep =
    { s.rep with
      counters := [], hotMarked := 0, uncovered := 0, clampMask := clampMaskOf s.cmd.plan.frozen } := by
  simp only [startRun, State.setRep_rep]

/-! ## The blocks ABORT's effects write (R163) -/

@[simp] theorem abortEffects_cmd : (abortEffects s).cmd = { s.cmd with run := .idle } := by
  simp only [abortEffects, State.setArb_cmd, State.setCache_cmd, State.setDark_cmd, State.setHdr_cmd,
    State.setCmd_cmd]
@[simp] theorem abortEffects_hdr : (abortEffects s).hdr = s.hdr.aborted := by
  simp only [abortEffects, State.setArb_hdr, State.setCache_hdr, State.setDark_hdr, State.setHdr_hdr]
@[simp] theorem abortEffects_dark : (abortEffects s).dark = s.dark.dropBuilding := by
  simp only [abortEffects, State.setArb_dark, State.setCache_dark, State.setDark_dark]
@[simp] theorem abortEffects_cache : (abortEffects s).cache = s.cache.clear := by
  simp only [abortEffects, State.setArb_cache, State.setCache_cache]
@[simp] theorem abortEffects_arb : (abortEffects s).arb = { s.arb with inFlight := s.arb.inFlight.map Flight.dropFill } := by
  simp only [abortEffects, State.setArb_arb]

end Sys2Proof.Machine
end

