-- ==== Sys2Proof/Tests/Slice0.lean ====
section
/-! SUPPORT. Tests/Slice0.lean: the smoke test of WellFormed, small tests of one command each with results worked from the
manual (most are its own worked cases), and for every statement with hypotheses a witness that meets them together. -/

namespace Sys2Proof.Tests

open Sys2Proof.Machine

/-! ## Small states -/

/-- A plan of 256 × 256 pixels, 64 tiles, its regions one after another (R151). -/
def smallPlan : Frozen :=
  { Frozen.reset with
    width := 256, height := 256, pitch := 512, captureBase := 0x10000000, resultBase := 0x10100000,
    accBase := 0x10300000, darkBase := 0x10400000, ckptBase := 0x1C400000 }

/-- After the RESET line, with the plan written. -/
def idle : State :=
  { State.reset with cmd := { CommandUnit.reset with plan := { Plan.reset with frozen := smallPlan } } }

/-- A run of the plan in a run state and mode. -/
def inRun (run : RunState) (mode : RunMode) : State :=
  { idle with cmd := { idle.cmd with run := run, mode := mode, snap := smallPlan } }

/-- A LIGHT run, RUNNING. -/
def running : State := inRun .running .light

/-- A DARK run, ENDED, with one subframe folded. -/
def endedDark : State := { inRun .ended .dark with hdr := { HeaderUnit.reset with folded := 1 } }

/-- The open subframe of index `k` with `landed` blocks. -/
def openOf (k : BitVec 16) (landed : Nat) : Subframe := ⟨k, 180, 30000, 0, DarkChoice.none, 0, 2 ^ 30, 0, landed, 0⟩

/-- RUNNING and LOCKED with that subframe open. -/
def withOpen (k : BitVec 16) (landed : Nat) : State :=
  { running with hdr := { HeaderUnit.reset with lock := .locked, folded := k, opened := some (openOf k landed) } }

/-- A slot that holds the plane of the small geometry. -/
def validSlot : Slot := ⟨false, 180, 30000, 40, 256, 256, 0x10400000⟩

/-- A CLEAN or DIRTY sector of a tile with fresh records. -/
def sectorOf (st : SectorState) (tile : Nat) : Sector := ⟨st, tile, false, false, ⟨0, 0, 64, 0, 0⟩, []⟩

/-- One transaction in flight for a purpose. -/
def flight (p : Purpose) : List Flight := [⟨p, .read 0 1⟩]

/-- The state with one transaction in flight. -/
def flyingOne (p : Purpose) (s : State) : State := { s with arb := { s.arb with inFlight := flight p } }

/-- The state a command leads to. -/
def after (i : Instr) (s : State) : State :=
  match exec i s with
  | .next t => t
  | _ => s

/-- The header line of a run tag 0, with its check word (R19). -/
def headerLine (seq temperature exposure timestamp runTag : Nat) : Nat :=
  let fields : List Field :=
    [⟨0, 4, 0x7E51A3D2⟩, ⟨4, 2, seq⟩, ⟨6, 2, temperature⟩, ⟨8, 4, exposure⟩, ⟨12, 4, timestamp⟩, ⟨16, 4, runTag⟩]
  imageOf (⟨62, 2, checkWord (wordSum 32 (imageOf fields))⟩ :: fields)

/-- A burst of 8 beats, every strobe set, with the bytes of a number. -/
def burstOf (image : Nat) : List Beat := (List.range 8).map fun i => ⟨BitVec.ofNat 64 (image / 2 ^ (64 * i)), 0xFF⟩

/-- A whole header of sequence `seq` in one burst. -/
def headerBurst (seq : Nat) : List Beat := burstOf (headerLine seq 180 30000 1234567 0)

/-- A command word without anything else in its burst. -/
def word (arg : BitVec 16) : CommandBurst := ⟨arg, 0, 0, []⟩

/-- The state with a transaction in flight and the Bulk Mover at an operation. -/
def moving (p : Purpose) (b : BulkOp) (s : State) : State := { flyingOne p s with bulk := some b }

/-- The state with a command in flight. -/
def busy (c : LongCommand) (s : State) : State := { s with cmd := { s.cmd with inFlight := some (c, 0) } }

/-- The state with one sector and perhaps a fill, a writeback and a flush. -/
def caching (x : Sector) (fill : Option Fill) (w : Option Writeback) (fl : Option Flush) (s : State) : State :=
  { s with cache := ⟨[(0, some x)], [0], [], fl, fill, w, none⟩ }

/-- A LIGHT run with dark use set whose open subframe uses slot 0. -/
def darkRun : State :=
  { running with
    hdr := { HeaderUnit.reset with
      lock := .locked, folded := 1, opened := some { openOf 1 0 with choice := ⟨some ⟨0, 4096⟩, none, 0⟩ } }
    dark := ⟨[(0, some validSlot)], 0, 0, false⟩
    cmd := { running.cmd with snap := { smallPlan with darkUse := true } } }

/-- A landed block with one or two fetches placed. -/
def fetching (b : Option Fetch) : Block := ⟨0, 0, List.replicate 32 100, some ⟨0x10400000, 4096, .placed⟩, b, 0⟩

/-! ## WellFormed: an ill-formed term for each check, refused -/

theorem smoke_badCommand_with_a_named_code : (Instr.badCommand 0x0001 (word 0)).wf = false := by decide
theorem smoke_eventClear_without_a_strobe : (Instr.eventClearWord 0x1FF 0).wf = false := by decide
theorem smoke_eventLevels_without_a_strobe : (Instr.eventLevels 0x2058 0).wf = false := by decide
theorem smoke_classWrite_without_a_strobe : (Instr.classWrite 0 [⟨0, 0⟩]).wf = false := by decide
theorem smoke_planWrite_with_a_command : (Instr.planWrite 0 [⟨1, 0x0F⟩]).wf = false := by decide
theorem smoke_planWrite_of_the_clear_word : (Instr.planWrite 0 [⟨0, 0x10⟩]).wf = false := by decide
theorem smoke_planWrite_of_the_levels : (Instr.planWrite 0x048 [⟨0, 0x80⟩]).wf = false := by decide
theorem smoke_planWrite_of_the_class_window : (Instr.planWrite 0x800 [⟨0, 0x01⟩]).wf = false := by decide
theorem smoke_place_above_seven : (Instr.planeWriteEnd 8 .ok).wf = false := by decide
theorem smoke_well_formed_terms :
    (Instr.planWrite 0x048 [⟨0, 0x01⟩]).wf = true ∧ (Instr.badCommand 0x0005 (word 0)).wf = true
      ∧ (Instr.planeWriteEnd 7 .ok).wf = true := by decide

/-! ## Tests of the manual's worked cases -/

/-- Section 2.8: the check word of the header of subframe 101 is 0x36BE. -/
theorem test_header_check_word : fieldAt (headerLine 101 180 30000 1234567 0x5A3C0001) 62 2 = 0x36BE := by decide +kernel

/-- Section 2.8: the middle of that exposure is 1,249,567. -/
theorem test_mid_exposure : midExposure 1234567 30000 = 1249567 := by decide

/-- Section 1.8: block 101 under code 0x1B reversed: burst beat 8 (place 0) carries pixels 3263 down to 3260. -/
theorem test_mirrored_block :
    let f := { Frozen.reset with oddCode := 0x1B, oddReverse := true }
    let v := decodeBlock f 101 (⟨0x0004000300020001, 0xFF⟩ :: List.replicate 7 ⟨0, 0xFF⟩)
    v[31]? = some 1 ∧ v[30]? = some 2 ∧ v[29]? = some 3 ∧ v[28]? = some 4 := by decide

/-- Section 1.8: plan page byte 0xA4C, bits 2 and 3, is the class of tile 2353; TRACK there, the others of the byte GROUND. -/
theorem test_class_entry :
    let s := after (.classWrite 0x248 [⟨0x0400000000, 0x10⟩]) idle
    s.classOf 2353 = .track ∧ s.classOf 2352 = .ground ∧ s.classOf 2354 = .ground := by decide

/-- Section 1.8: the same write in RUNNING changes no entry and counts 1. -/
theorem test_class_write_ignored :
    let s := after (.classWrite 0x248 [⟨0x0400000000, 0x10⟩]) running
    s.classOf 2353 = .ground ∧ s.counter .classWritesIgnored = 1 := by decide

/-- Section 3.8: four matching slots at 50, 150, 150 and 250; the choices at 30, 150, 180 and 262. -/
def fourSlots : List (Nat × Slot) :=
  [(0, { validSlot with temperature := 50 }), (1, { validSlot with temperature := 150 }),
    (2, { validSlot with temperature := 150 }), (3, { validSlot with temperature := 250 })]

theorem test_slot_choice_below_all : chooseSlots fourSlots 30 30000 = (⟨some ⟨0, 4096⟩, none, 0⟩, true) := by decide +kernel
theorem test_slot_choice_equal : chooseSlots fourSlots 150 30000 = (⟨some ⟨1, 4096⟩, none, 0⟩, false) := by decide +kernel
theorem test_slot_choice_between :
    chooseSlots fourSlots 180 30000 = (⟨some ⟨1, 4096⟩, some ⟨3, 4096⟩, 76⟩, false) := by decide +kernel
theorem test_slot_choice_above_all : chooseSlots fourSlots 262 30000 = (⟨some ⟨3, 4096⟩, none, 0⟩, true) := by decide +kernel

/-- Section 3.8: two slots of different exposures blend to 220, and 1000 - 220 = 780. -/
theorem test_blend :
    exposureScale 20000 30000 = 2731 ∧ exposureScale 20000 60000 = 1365
      ∧ darkOf (some (300, 2731)) (some (800, 1365)) 76 = .level 220 ∧ corrected 1000 220 = 780
      ∧ darkOf (some (310, 2731)) (some (0xFFFF, 1365)) 76 = .hot := by decide

/-- Section 3.8: the fetch of row 401, block 100 of the reference geometry, 4,826,176 bytes into the plane. -/
theorem test_fetch_address :
    fetchAddress { Frozen.reset with width := 6016, height := 4000 } 0 401 100 = 4826176 := by decide

/-- Section 3.8: the five plane values at hot threshold 4000, and the temperature 154 of sum 6140 over 40. -/
theorem test_plane_values :
    planeValue 4000 ⟨8430, 40, 0, 0, 0⟩ = 211 ∧ planeValue 4000 ⟨8420, 40, 0, 0, 0⟩ = 210
      ∧ planeValue 4000 ⟨200000, 40, 0, 0, 0⟩ = 0xFFFF ∧ planeValue 4000 ⟨0, 0, 0, 65535, 0⟩ = 0
      ∧ planeValue 4000 ⟨2621400, 40, 0, 0, 0⟩ = 0xFFFF := by decide

theorem test_mean_temperature : meanTemperature 6140 40 = 154 := by decide

/-- Section 4.8: the accepted sample of subframe 8 and the satellite of subframe 9. -/
theorem test_accepted_sample :
    Rec.absorb Frozen.reset .ground 8 1520 269 ⟨4800, 4, 40, 1290, 7⟩ = (.accepted, ⟨6051, 5, 40, 1290, 8⟩) := by decide

theorem test_rejected_sample :
    Rec.absorb Frozen.reset .ground 9 5200 269 ⟨6051, 5, 40, 1290, 8⟩ = (.rejected, ⟨6051, 5, 42, 4931, 9⟩) := by decide

/-- Section 4.8: the warm-up's first four samples and the saturated one. -/
theorem test_warm_up :
    Rec.absorb Frozen.reset .ground 1 1180 0 (freshRec 64) = (.accepted, ⟨1180, 1, 64, 1180, 1⟩)
      ∧ Rec.absorb Frozen.reset .ground 2 1230 0 ⟨1180, 1, 64, 1180, 1⟩ = (.accepted, ⟨2410, 2, 63, 1230, 2⟩)
      ∧ Rec.absorb Frozen.reset .ground 3 1195 0 ⟨2410, 2, 63, 1230, 2⟩ = (.accepted, ⟨3605, 3, 59, 1230, 3⟩)
      ∧ Rec.absorb Frozen.reset .ground 4 1260 0 ⟨3605, 3, 59, 1230, 3⟩ = (.accepted, ⟨4865, 4, 59, 1260, 4⟩)
      ∧ Rec.absorb Frozen.reset .ground 5 65535 0 ⟨4865, 4, 59, 1260, 4⟩ = (.saturated, ⟨4865, 4, 59, 65535, 5⟩) := by
  decide

/-- R81: a second sample of one subframe at a record is COLLIDED. -/
theorem test_collided_sample :
    Rec.absorb Frozen.reset .track 8 1520 0 ⟨6051, 5, 40, 1290, 8⟩ = (.collided, ⟨6051, 5, 40, 1290, 8⟩) := by decide

/-- The reference geometry and pole of section 5.8. -/
def sky : Frozen := { Frozen.reset with width := 6016, height := 4000, poleA := 24000, poleB := -12800 }

/-- Section 5.8: phase 7,656,000,000 turns pixel (3201, 401) to (3113, 407) and spills (200, 0). -/
theorem test_rotation :
    let cs := cosSin (phaseOf 12760 600000)
    phaseOf 12760 600000 = 7656000000 ∧ destination sky cs.1 cs.2 3201 401 = some (3113, 407)
      ∧ destination sky cs.1 cs.2 200 0 = none := by decide

/-- Section 5.8: at Δt = -600,000 ms the same source goes to (3289, 391), and the history phase is 65,079. -/
theorem test_rotation_back :
    let cs := cosSin (phaseOf 12760 (-600000))
    (phaseOf 12760 (-600000)).extractLsb' 24 16 = 65079 ∧ destination sky cs.1 cs.2 3201 401 = some (3289, 391) := by
  decide

/-- Section 5.8: the half turn about (1500.25, 200.5): a tie at 0.5 goes to 1 and one at -0.5 to -1, off the image. -/
theorem test_half_turn_ties :
    let f := { sky with poleA := 24004, poleB := 3208 }
    cosSin 0x8000000000 = (-(2 ^ 30), 0) ∧ destination f (-(2 ^ 30)) 0 3198 398 = some (2804, 404)
      ∧ destination f (-(2 ^ 30)) 0 6000 400 = some (2, 402) ∧ destination f (-(2 ^ 30)) 0 6002 400 = none := by decide

/-- R97: the quarter turns are exact. -/
theorem test_quarter_turns :
    cosSin 0 = (2 ^ 30, 0) ∧ cosSin 0x4000000000 = (0, 2 ^ 30) ∧ cosSin 0xC000000000 = (0, -(2 ^ 30)) := by decide

/-- Section 7.8: scaled means of sum 6051, n 5 at three gains. -/
theorem test_scaled_means :
    meanValue { Plan.reset with gain := 256 } ⟨6051, 5, 42, 4931, 9⟩ = 1210
      ∧ meanValue { Plan.reset with gain := 640 } ⟨6051, 5, 42, 4931, 9⟩ = 3026
      ∧ meanValue { Plan.reset with gain := 65535 } ⟨6051, 5, 42, 4931, 9⟩ = 65535 := by decide

/-- Section 7.8: the trail record under its gains. -/
theorem test_trail_values :
    recordValue { Plan.reset with trailGain := 256 } .trail ⟨6615, 3, 64, 5000, 3⟩ = 5000
      ∧ recordValue { Plan.reset with trailGain := 64 } .trail ⟨6615, 3, 64, 5000, 3⟩ = 2205
      ∧ recordValue { Plan.reset with trailGain := 8 } .trail ⟨7405, 4, 64, 65535, 5⟩ = 2048 := by decide

/-- Section 7.8: V of the reference geometry, and the pixel of a byte offset in a view. -/
theorem test_view_layout :
    let f := { Frozen.reset with width := 6016, height := 4000, pitch := 12032 }
    f.viewSize = 48234496 ∧ pixelAt f 4903250 = some (3113, 407) ∧ pixelAt f 48128000 = none := by decide

/-- Section 10.5: a half-written gain: 256, then 384, then 640. -/
theorem test_half_written_gain :
    let p := Plan.reset.setByte (0x040, 0x80)
    p.gain = 384 ∧ (p.setByte (0x041, 0x02)).gain = 640 := by decide

/-- Section 10.5: under the levels 0x2058 a pending COMMAND_DONE drives ATTN and MEMORY_FAULT drives ALERT. -/
theorem test_lines :
    let s := after (.eventLevels 0x2058 0xF) idle
    (raise .commandDone s).attn = true ∧ (raise .commandDone s).alert = false ∧ (raise .memoryFault s).alert = true := by
  decide

/-! ## One command each -/

/-- R168: the four strap settings. -/
theorem test_straps :
    (after (.resetLineRelease false true) (after .resetLineAssert idle)).planBase = 0x1FF00000
      ∧ (after (.resetLineRelease true true) (after .resetLineAssert idle)).planBase = 0x7FF00000 := by decide

/-- R4, R182: the RESET line clears the plan shadow and every class. -/
theorem test_reset_line :
    (after .resetLineAssert running).cmd.run = .idle ∧ (after .resetLineAssert running).cmd.plan = Plan.reset := by decide

/-- R174: a read outside every window is carried; when its transaction ends the beats come back. -/
theorem test_pass_through_read :
    (after (.passThroughRead 0x20000000 2) idle).inHand = some (.through (.read 0x20000000 2) false) := by decide

theorem test_pass_through_end :
    (after (.passThroughEnd 0 .ok 7) (flyingOne .passThrough
      { idle with inHand := some (.through (.read 0x20000000 2) true) })).answers = [⟨.ok, [7, 0]⟩] := by decide +kernel

/-- R173: while the run is RUNNING a write to the accumulator region is answered ERROR. -/
theorem test_pass_through_write_protected :
    (after (.passThroughWrite 0x10300000 [⟨0, 0xFF⟩]) running).answers = [⟨.error, []⟩]
      ∧ (after (.passThroughWrite 0x10300000 [⟨0, 0xFF⟩]) idle).answers = [] := by decide

/-- R180: a plan write sets the strobed bytes of W. -/
theorem test_plan_write : (after (.planWrite 0x008 [⟨0x0160, 0x02⟩]) idle).cmd.plan.frozen.width = 256 := by decide

/-- R190: the clear word clears the events of its 1 bits in strobed bytes alone. -/
theorem test_event_clear :
    let s := raise .shortSubframe (raise .memoryFault idle)
    (after (.eventClearWord 0x140 0x1) s).isRaised .memoryFault = false
      ∧ (after (.eventClearWord 0x140 0x1) s).isRaised .shortSubframe = true := by decide

/-- R152: START of the small plan begins a LIGHT run; R150: one with W of 0 is refused BAD_PLAN. -/
theorem test_start :
    (after (.start (word 0)) idle).cmd.run = .running ∧ (after (.start (word 0)) State.reset).cmd.record.outcome = some .badPlan := by
  decide

/-- R156: END makes the run ENDING; with no DIRTY sector the context write begins. -/
theorem test_end :
    let s := after (.endRun (word 0)) running
    s.cmd.run = .ending ∧ s.guardedCkpt = some 0x1C400000 := by decide

/-- R158: CHECKPOINT leaves the run RUNNING and is refused in IDLE. -/
theorem test_checkpoint :
    (after (.checkpoint (word 0)) running).cmd.run = .running
      ∧ (after (.checkpoint (word 0)) idle).cmd.record.outcome = some .wrongState := by decide

/-- R160, R149: RESUME begins its reads at the checkpoint base, and from a misaligned one ends with MEMORY_FAULT. -/
theorem test_resume :
    (after (.resume (word 0)) idle).bulk = some (.contextRead 0x1C400000 0 0 false [])
      ∧ (after (.resume ⟨0, 0, 0, [⟨0, 0⟩, ⟨0, 0⟩, ⟨0, 0⟩, ⟨0x1000, 0x0F⟩]⟩) idle).cmd.record.outcome = some .memoryFault := by
  decide

/-- R56: COMMIT_DARK builds slot 2 from the snapshot, and is refused EMPTY_RUN with nothing folded. -/
theorem test_commit_dark :
    ((after (.commitDark (word 2)) endedDark).dark.slot 2).map (·.base) = some 0x16400000
      ∧ (after (.commitDark (word 2)) (inRun .ended .dark)).cmd.record.outcome = some .emptyRun := by decide

/-- R65: DROP_DARK empties its slot at once; an arg above 3 is refused. -/
theorem test_drop_dark :
    (after (.dropDark (word 1)) { idle with dark := ⟨[(1, some validSlot)], 0, 0, false⟩ }).dark.slot 1 = none
      ∧ (after (.dropDark (word 4)) idle).cmd.record.outcome = some .badSlot := by decide

/-- R66: ADOPT_LIBRARY reads 4096 bytes above the checkpoint base. -/
theorem test_adopt_library :
    (after (.adoptLibrary (word 0)) idle).bulk = some (.libraryRead 0x1C400000 false) := by decide

/-- R163: ABORT in READY makes the run IDLE with outcome DONE. -/
theorem test_abort :
    (after (.abort (word 0)) running).cmd.run = .idle ∧ (after (.abort (word 0)) running).cmd.record.outcome = some .done := by
  decide

/-- R147: a code that names no command. -/
theorem test_bad_command : (after (.badCommand 0x0005 (word 0)) idle).cmd.record.outcome = some .badCommand := by decide

/-- R24: the first VALID header of a run moves HUNT to PROBE and is SKIPPED. -/
theorem test_first_header :
    let s := after (.headerWrite 0x10000000 (headerBurst 101)) running
    s.hdr.lock = .probe ∧ s.hdr.last = 101 ∧ s.counter .skipped = 1 := by decide +kernel

/-- R26, R32: the next one locks and opens subframe 1. -/
theorem test_second_header :
    let s := after (.headerWrite 0x10000000 (headerBurst 102))
      { running with hdr := { HeaderUnit.reset with lock := .probe, last := 101 } }
    s.hdr.lock = .locked ∧ s.hdr.folded = 1 ∧ s.hdr.opened.isSome = true := by decide +kernel

/-- R38, R10: an idle block counts 8 beats; a burst of 7 beats is malformed. -/
theorem test_capture_idle : (after (.captureWrite 0x10001000 (burstOf 0)) idle).counter .idleCaptureBeats = 8 := by decide

theorem test_capture_malformed :
    (after (.captureWrite 0x10001000 (List.replicate 7 ⟨0, 0xFF⟩)) idle).counter .malformedBursts = 1 := by decide

/-- R172: a read of the capture window is answered ERROR with its beats 0. -/
theorem test_capture_read : (after (.captureRead 0x10000000 2) idle).answers = [⟨.error, [0, 0]⟩] := by decide

/-- R140: an untouched image reads as the fill value, its coverage as 0. -/
theorem test_result_read :
    let s := { running with cmd := { running.cmd with plan := { running.cmd.plan with fill := 100 } } }
    (after (.resultRead 0x10100000 1) s).answers = [⟨.ok, [0x0064006400640064]⟩]
      ∧ (after (.resultRead 0x10200000 1) s).answers = [⟨.ok, [0]⟩] := by decide

/-- R172: a write to a result view. -/
theorem test_result_write : (after (.resultWrite 0x10100000 [⟨0, 0xFF⟩]) running).answers = [⟨.error, []⟩] := by decide

/-- Section 11.3: the lock state 2 (LOCKED) and the fold index of the open subframe at their offsets. -/
theorem test_report_fields :
    (withOpen 5 0).reportFields[3]? = some ⟨0x003, 1, 2⟩ ∧ (withOpen 5 0).reportFields[16]? = some ⟨0x01C, 2, 5⟩ := by decide

/-- R183: a report page read is answered OK at once. -/
theorem test_report_read : (after (.reportRead 0x3F8 1) running).answers.map (·.resp) = [.ok] := by decide

/-- R172: a write to the report page. -/
theorem test_report_write : (after (.reportWrite 0 [⟨0, 0xFF⟩]) running).answers = [⟨.error, []⟩] := by decide

/-- R177, R178: a grant places the carried request and leaves its pass count 0. -/
theorem test_grant :
    let s := after .mLinkGrant { idle with inHand := some (.through (.read 0x20000000 2) false) }
    s.arb.inFlight = [⟨.passThrough, .read 0x20000000 2⟩] ∧ s.inHand = some (.through (.read 0x20000000 2) true) := by
  decide

/-- R128, R169: with an odd result base in IDLE the pixel at offset 6 starts at the top byte of a beat. -/
theorem test_result_read_odd_base :
    let s := { idle with cmd := { idle.cmd with plan :=
      { idle.cmd.plan with frozen := { smallPlan with resultBase := 0x10100001 }, fill := 0x1234 } } }
    (after (.resultRead 0x10100008 1) s).answers = [⟨.ok, [0x3412341234123412]⟩] := by decide +kernel

/-! ## Answers of the M-link, one each -/

/-- R51: a block whose only fetch fails is discarded and counted, and its burst answered OK. -/
theorem test_dark_fetch_error :
    let s := after (.darkFetchEnd 0 .error 0) (flyingOne (.darkFetch 0 0 false)
      { darkRun with inHand := some (.capture ⟨none, [fetching none]⟩) })
    s.counter .darkReadErrors = 1 ∧ s.isRaised .memoryFault = true ∧ s.answers = [⟨.ok, []⟩] := by decide

/-- The fold of a block that waits for a fill. -/
def waitingFold : Fold := ⟨0, 0, List.replicate 32 100, List.replicate 32 (.level 0), 1, 2 ^ 30, 0, 0⟩

/-- The second block of a burst, its only fetch in flight, while the fold of the first waits for the fill of tile 0. -/
def secondFetching : State :=
  flyingOne (.darkFetch 0 0 false)
    { caching (sectorOf .filling 0) (some ⟨0, 0, 96, 3, false, []⟩) none none darkRun with
      inHand := some (.capture ⟨some waitingFold, [fetching none]⟩) }

/-- R51: a block that loses its fetch while the block before it waits for a fill is discarded and counted at once. -/
theorem test_dark_fetch_error_during_fill :
    let s := after (.darkFetchEnd 0 .error 0) secondFetching
    s.counter .darkReadErrors = 1 ∧ s.isRaised .memoryFault = true
      ∧ s.inHand = some (.capture ⟨some waitingFold, []⟩) := by decide

/-- R119: the 96th read of a fill, answered ERROR: the sector is CLEAN and tile 5 the first fill-error tile. -/
theorem test_fill_error :
    let s := after (.sectorFillEnd 0 .error 0) (flyingOne (.fill 95)
      (caching (sectorOf .filling 5) (some ⟨5, 0, 96, 95, false, []⟩) none none running))
    s.cache.stateIs 0 .clean = true ∧ s.cache.firstFillError = some 5 ∧ s.counter .fillErrors = 1 := by decide

/-- R121, R122: a first failed eviction leaves the sector DIRTY, a second loses its tile. -/
theorem test_eviction_failures :
    let failing (once : Bool) := after (.evictionWritebackEnd 0 .error) (flyingOne (.evict 95)
      (caching { sectorOf .writing 5 with failedOnce := once } none (some ⟨0, false, 96, 95, false⟩) none running))
    (failing false).cache.stateIs 0 .dirty = true ∧ (failing false).counter .writebackFailures = 1
      ∧ (failing true).cache.sector 0 = none ∧ (failing true).counter .lostTiles = 1 := by decide

/-- R123, R124: the last sector of a flush becomes CLEAN and the context write begins. -/
theorem test_flush_end :
    let s := after (.flushWritebackEnd 0 .ok) (flyingOne (.flush 95)
      (caching (sectorOf .writing 5) none (some ⟨0, true, 96, 95, false⟩) (some ⟨0, false⟩) running))
    s.cache.stateIs 0 .clean = true ∧ s.cache.flush = none ∧ s.guardedCkpt = some 0x1C400000 := by decide

/-- R157: the 33rd write of END's context: the run is ENDED with outcome DONE. -/
theorem test_context_write_end :
    let s := after (.contextWriteEnd 0 .ok) (moving .contextWrite (.contextWrite 0x1C400000 [] false 32 true)
      { busy .endRun running with cmd := { (busy .endRun running).cmd with saving := some .endRun } })
    s.cmd.run = .ended ∧ s.cmd.record.outcome = some .done ∧ s.cmd.inFlight = none := by decide

/-- R160: RESUME ends with MEMORY_FAULT after an ERROR. -/
theorem test_context_read_error :
    let s := after (.contextReadEnd 0 .error 0)
      (moving (.contextRead 0) (.contextRead 0x1C400000 1 0 false []) (busy .resume idle))
    s.cmd.record.outcome = some .memoryFault ∧ s.cmd.run = .idle := by decide

/-- R60: a tile whose reads met an ERROR is all hot marks. -/
theorem test_record_read_error :
    let s := after (.commitRecordReadEnd 0 .error 0)
      (moving (.recordRead 95) (.recordRead ⟨0, 0, 4000⟩ 96 95 false []) (busy .commitDark endedDark))
    s.rep.hotMarked = 1024 ∧ s.isRaised .memoryFault = true := by decide

/-- R61: a plane write error empties the slot and ends the command. -/
theorem test_plane_write_error :
    let s := after (.planeWriteEnd 0 .error) (moving (.planeWrite 0) (.planeWrite ⟨0, 0, 4000⟩ [] 1 0 false)
      { busy .commitDark endedDark with dark := ⟨[(0, some { validSlot with building := true })], 0, 0, false⟩ })
    s.dark.slot 0 = none ∧ s.cmd.record.outcome = some .memoryFault := by decide

/-- R64, R65: the library write ends. -/
theorem test_library_write_end :
    (after (.libraryWriteEnd 0 .ok) (moving .libraryWrite (.libraryWrite 0x1C400000 0 true) (busy .dropDark idle))).cmd.record.outcome
      = some .done := by decide

/-- R66: a record of zeros makes every slot EMPTY, with outcome DONE. -/
theorem test_library_read_end :
    let s := after (.libraryReadEnd 0 .ok 0) (moving .libraryRead (.libraryRead 0x1C400000 true)
      { busy .adoptLibrary idle with dark := ⟨[(0, some validSlot)], 0, 0, false⟩ })
    s.dark.slot 0 = none ∧ s.cmd.record.outcome = some .done := by decide +kernel

/-! ## Witnesses: the hypotheses of the statements hold together -/

theorem witness_StepTakesTheFrontCommand : { idle with pending := [.mLinkGrant] }.pending = .mLinkGrant :: [] := rfl

theorem witness_ReleaseLatchesTheStraps :
    (after .resetLineAssert idle).resetLow = true ∧ (after .resetLineAssert idle).waiting = [] ∧ idle.resetLow = false := by
  decide

theorem witness_RefusedRequestsHaveNoEffect :
    (requestOf idle (.passThroughRead 0x20000004 16) = some (.read 0x20000004 16) ∧ idle.isFree
      ∧ idle.holdsBack (.read 0x20000004 16) = false ∧ idle.refuses (.read 0x20000004 16) = true)
    ∧ (requestOf idle (.passThroughRead 0x20000000 17) = some (.read 0x20000000 17)
      ∧ idle.holdsBack (.read 0x20000000 17) = false ∧ idle.refuses (.read 0x20000000 17) = true)
    ∧ (requestOf idle (.resultWrite 0x80000000 [⟨0, 0⟩]) = some (.write 0x80000000 [⟨0, 0⟩])
      ∧ idle.holdsBack (.write 0x80000000 [⟨0, 0⟩]) = false ∧ idle.refuses (.write 0x80000000 [⟨0, 0⟩]) = true) := by decide

/-- A byte of each window, and one of none, in IDLE and in a run. -/
theorem witness_RefusedRequestsHaveNoEffect_windows :
    idle.windowOf 0x0FF00FFF = .plan ∧ idle.windowOf 0x0FF01000 = .report ∧ idle.windowOf 0x10000000 = .capture
      ∧ running.windowOf 0x10020FFF = .capture ∧ running.windowOf 0x10100000 = .image
      ∧ running.windowOf 0x102FFFFF = .coverage ∧ running.windowOf 0x1C401FFF = .checkpoint
      ∧ running.windowOf 0x103BFFFF = .accumulator ∧ running.windowOf 0x1C3FFFFF = .dark
      ∧ running.windowOf 0x1C402000 = .pass := by decide

theorem witness_RequestsWaitInOrder :
    (let r : Request := .read 0x20000000 1
     (idle.waiting ++ [r]).head? = some r ∧ { idle with inHand := some .header }.blocks r
      ∧ (after .resetLineAssert idle).blocks r)
    ∧ (let s := busy .checkpoint running
       s.blocks (.write 0x10000000 (headerBurst 1)) ∧ s.blocks (.read 0x10020FF8 1) ∧ ¬s.blocks (.read 0x10021000 1)) :=
  ⟨⟨rfl, .inl (nomatch ·), .inr (.inl rfl)⟩, .inr (.inr (by decide +kernel)), .inr (.inr (by decide)), by
    rintro (h | h | h)
    · exact h rfl
    · exact nomatch h
    · revert h; decide⟩

/-- Rows that issue no request, with one waiting that cannot be taken before: the end of the request in hand, the release of
the RESET line, and the last write of a CHECKPOINT. After each it is in hand, or opens a subframe. -/
theorem witness_RequestsWaitInOrder_taken :
    let w : Request := .read 0x20000000 1
    (let s := flyingOne .passThrough { idle with inHand := some (.through w true), waiting := [w] }
     requestOf s (.passThroughEnd 0 .ok 0) = none ∧ s.inHand ≠ none
      ∧ (after (.passThroughEnd 0 .ok 0) s).inHand = some (.through w false))
    ∧ (let s := { after .resetLineAssert idle with waiting := [w] }
       requestOf s (.resetLineRelease false false) = none ∧ s.resetLow = true
        ∧ (after (.resetLineRelease false false) s).inHand = some (.through w false))
    ∧ (let c := busy .checkpoint { running with cmd := { running.cmd with saving := some .checkpoint } }
       let s := moving .contextWrite (.contextWrite 0x1C400000 [] false 32 true)
        { c with hdr := { c.hdr with lock := .probe, last := 101 }, waiting := [.write 0x10000000 (headerBurst 102)] }
       requestOf s (.contextWriteEnd 0 .ok) = none ∧ s.holdsBack (.write 0x10000000 (headerBurst 102)) = true
        ∧ (after (.contextWriteEnd 0 .ok) s).hdr.folded = 1) := by decide +kernel

theorem witness_PassThroughIsCarriedOrProtected :
    (idle.takesIn (.read 0x20000000 1) .pass ∧ idle.takesIn (.read 0x0FF00FF8 1) .plan
      ∧ idle.takesIn (.read 0x103BFFF8 1) .accumulator ∧ idle.takesIn (.read 0x10400000 16) .dark
      ∧ idle.takesIn (.read 0x1C401FF8 1) .checkpoint)
    ∧ (idle.takesIn (.write 0x7FFFFFF8 [⟨0, 0⟩]) .pass ∧ idle.isProtected (.write 0x7FFFFFF8 [⟨0, 0⟩]) = false)
    ∧ (running.takesIn (.write 0x103BFFF8 [⟨0, 0⟩]) .accumulator
      ∧ running.isProtected (.write 0x103BFFF8 [⟨0, 0⟩]) = true) := by decide

/-- A slot being built whose plane lies over the plan page: a plain write and a command word. -/
theorem witness_PassThroughIsCarriedOrProtected_plan :
    let s := { idle with dark := ⟨[(0, some { validSlot with building := true, base := 0x0FF00000 })], 0, 0, false⟩ }
    (requestOf s (.planWrite 0x008 [⟨0, 0xFF⟩]) = some (.write 0x0FF00008 [⟨0, 0xFF⟩])
      ∧ s.takesIn (.write 0x0FF00008 [⟨0, 0xFF⟩]) .plan ∧ s.isProtected (.write 0x0FF00008 [⟨0, 0xFF⟩]) = true)
    ∧ (let r := commandRequest abortCode (word 0) s
       requestOf s (.abort (word 0)) = some r ∧ s.takesIn r .plan ∧ s.isProtected r = true) := by decide

theorem witness_PassThroughEndAnswersTheRequest :
    (let s := flyingOne .passThrough { idle with inHand := some (.through (.read 0x20000000 16) true) }
     s.flying 0 .passThrough ∧ s.inHand = some (.through (.read 0x20000000 16) true) ∧ s.waiting = [])
    ∧ (let s := flyingOne .passThrough { idle with inHand := some (.through (.write 0x20000000 []) true) }
       s.flying 0 .passThrough ∧ s.inHand = some (.through (.write 0x20000000 []) true) ∧ s.waiting = []) :=
  ⟨⟨⟨_, rfl⟩, rfl, rfl⟩, ⟨⟨_, rfl⟩, rfl, rfl⟩⟩

theorem witness_RefusedByTheirWindow :
    idle.takesIn (.read 0x10020FF8 1) .capture ∧ idle.takesIn (.write 0x101FFFF8 [⟨0, 0⟩]) .image
      ∧ idle.takesIn (.write 0x10200000 [⟨0, 0⟩]) .coverage
      ∧ idle.takesIn (.write (idle.reportAddr 0xFF8) [⟨0, 0⟩]) .report := by decide

theorem witness_PlanWriteIsSnoopedAndCarried :
    ((Instr.planWrite 0x008 [⟨0, 0xFF⟩]).wf = true ∧ idle.takesPlan (.write (idle.planAddr 0x008) [⟨0, 0xFF⟩]))
    ∧ ((Instr.planWrite 0x7F8 [⟨0, 0xFF⟩]).wf = true ∧ idle.takesPlan (.write (idle.planAddr 0x7F8) [⟨0, 0xFF⟩])) := by
  decide

/-- A frozen field's byte, the two flag bytes, the ends of the live fields and the gap between them. -/
theorem witness_SnoopedByteReadsBack :
    fieldAt (imageOf (Frozen.reset.setByte 0x03F 7).fields) 55 1 = 7
      ∧ fieldAt (imageOf (Frozen.reset.setByte 0x00E 3).fields) 6 1 = 1
      ∧ (Plan.reset.setByte (0x048, 3)).classPage = 3 ∧ Plan.reset.setByte (0x049, 3) = Plan.reset
      ∧ (Plan.reset.setByte (0x04F, 3)).levels = 0x03000000 := by decide +kernel

theorem witness_EventClearWordClearsStrobedBits :
    idle.takesPlan (.write (idle.planAddr 0) [clearBeat 0x1FF 0xF]) := by decide

theorem witness_EventLevelsTakeStrobedBytes :
    idle.takesPlan (.write (idle.planAddr 0x048) [levelsBeat 0x2058 0x8]) := by decide

/-- The first and the last event; RST_N high and low. -/
theorem witness_LinesFollowFlagsAndLevels :
    ([Event.lockAcquired, .lockLost, .commandDone, .sequenceGap, .tempOutside, .checkpointDone, .memoryFault, .runFull,
        .shortSubframe].map Event.bit = List.range 9)
      ∧ (raise .shortSubframe idle).rep.raised.getLsbD 8 = true ∧ idle.resetLow = false
      ∧ (after .resetLineAssert idle).resetLow = true := by decide

theorem witness_ClassWriteSetsEntries :
    (running.takesPlan (.write (running.planAddr (0x800 + 0x7F8)) [⟨0, 0x80⟩]) ∧ running.cmd.run = .running
      ∧ (Instr.classWrite 0x7F8 [⟨0, 0x80⟩]).wf = true)
    ∧ (idle.takesPlan (.write (idle.planAddr (0x800 + 0)) [⟨0, 0x01⟩]) ∧ idle.cmd.run ≠ .running) := by decide

theorem witness_RefusedCommandsOnlyWriteTheirOutcome :
    (commandRow (.start (word 2)) = some (startCode, word 2) ∧ idle.takesCommand startCode (word 2)
      ∧ refusalOf startCode (word 2).arg (idle.atCommand startCode (word 2)) = some .badCommand)
    ∧ (commandRow (.start (word 0)) = some (startCode, word 0) ∧ State.reset.takesCommand startCode (word 0)
      ∧ refusalOf startCode (word 0).arg (State.reset.atCommand startCode (word 0)) = some .badPlan)
    ∧ (commandRow (.badCommand 5 (word 0)) = some (5, word 0) ∧ idle.takesCommand 5 (word 0)
      ∧ refusalOf 5 (word 0).arg (idle.atCommand 5 (word 0)) = some .badCommand)
    ∧ (commandRow (.commitDark (word 3)) = some (commitDarkCode, word 3)
      ∧ (inRun .ended .dark).takesCommand commitDarkCode (word 3)
      ∧ refusalOf commitDarkCode (word 3).arg ((inRun .ended .dark).atCommand commitDarkCode (word 3)) = some .emptyRun) := by
  decide

theorem witness_CommandsTurnedAwayWhileBusy :
    commandRow (.start (word 0)) = some (startCode, word 0) ∧ startCode ≠ 0x00FF
      ∧ (busy .endRun running).takesPlan (commandRequest startCode (word 0) (busy .endRun running))
      ∧ (busy .endRun running).cmd.inFlight = some (.endRun, 0) := by decide

theorem witness_StartBeginsARun :
    (let p := idle.atCommand startCode (word 0)
     idle.takesCommand startCode (word 0) ∧ (word 0).arg.toNat ≤ 1 ∧ idle.cmd.run = .idle
      ∧ p.cmd.plan.frozen.usable idle.planBase = true ∧ darkTest .light p.cmd.plan.frozen idle.dark = true)
    ∧ (let s := inRun .ended .dark
       let p := s.atCommand startCode (word 1)
       s.takesCommand startCode (word 1) ∧ (word 1).arg.toNat ≤ 1 ∧ s.cmd.run = .ended
        ∧ p.cmd.plan.frozen.usable s.planBase = true ∧ darkTest .dark p.cmd.plan.frozen s.dark = true) := by decide

theorem witness_EndAndCheckpointBeginTheirFlush :
    (withOpen 1 0).cmd.run = .running ∧ (withOpen 1 0).takesCommand endCode (word 0)
      ∧ running.cmd.run = .running ∧ running.takesCommand checkpointCode (word 0) := by decide

theorem witness_ResumeBeginsItsReads :
    (idle.takesCommand resumeCode (word 0) ∧ idle.cmd.run = .idle)
    ∧ (idle.atCommand resumeCode (word 0)).cmd.plan.frozen.ckptBase.toNat % 1048576 = 0
    ∧ State.reset.takesCommand resumeCode ⟨0, 0, 0, [⟨0, 0⟩, ⟨0, 0⟩, ⟨0, 0⟩, ⟨0x1000, 0x0F⟩]⟩ := by decide

theorem witness_CommitDarkBeginsItsWalk :
    endedDark.takesCommand commitDarkCode (word 3) ∧ (word 3).arg.toNat ≤ 3 ∧ endedDark.cmd.run = .ended
      ∧ endedDark.cmd.mode = .dark ∧ endedDark.hdr.folded ≠ 0 ∧ endedDark.cache.isTouched 0 = false
      ∧ { endedDark with cache := { TileCache.reset with touched := [(0, true)] } }.cache.isTouched 0 = true := by decide

theorem witness_LibraryCommandsBegin :
    (idle.cmd.run = .idle ∧ idle.takesCommand dropDarkCode (word 3) ∧ (word 3).arg.toNat ≤ 3
      ∧ idle.takesCommand adoptLibraryCode (word 0))
    ∧ (endedDark.cmd.run = .ended ∧ endedDark.takesCommand dropDarkCode (word 0)
      ∧ endedDark.takesCommand adoptLibraryCode (word 0)) := by decide

theorem witness_AbortInReady :
    running.takesCommand abortCode (word 0) ∧ (∀ f, f ∈ running.arb.inFlight → f.purpose.isFill = false) := by decide

theorem witness_AbortWhileBusy :
    (let s := busy .endRun { running with cmd := { running.cmd with aborting := true } }
     s.takesPlan (commandRequest abortCode (word 0) s) ∧ s.cmd.inFlight = some (.endRun, 0) ∧ s.cmd.aborting = true)
    ∧ (let s := busy .endRun running
       s.takesPlan (commandRequest abortCode (word 0) s) ∧ s.cmd.inFlight = some (.endRun, 0) ∧ s.cmd.aborting = false
        ∧ s.stopsAtOnce = false)
    ∧ (let s := busy .resume { idle with
        bulk := some (.contextRead 0x1C400000 0 0 false []), dark := ⟨[(0, some validSlot)], 0, 0, false⟩ }
       s.takesPlan (commandRequest abortCode (word 0) s) ∧ s.cmd.inFlight = some (.resume, 0) ∧ s.cmd.aborting = false
        ∧ s.stopsAtOnce = true ∧ Table.wf none s.dark.slots = true) := by decide

/-- The three operations that ABORT stops at once, and each with its transaction in flight, where it waits. -/
theorem witness_AbortWhileBusy_stops :
    ∀ waits : Bool,
      ([(LongCommand.endRun, BulkOp.contextWrite 0x1C400000 [] false 3 waits),
        (.resume, .contextRead 0x1C400000 (if waits then 4 else 3) 3 false []),
        (.adoptLibrary, .libraryRead 0x1C400000 waits)].all fun p =>
        let s := { busy p.1 running with bulk := some p.2 }
        decide (s.takesPlan (commandRequest abortCode (word 0) s)) && !s.cmd.aborting && (s.stopsAtOnce == !waits)) = true := by
  decide

theorem witness_HeaderBytesArePlaced :
    (idle.takesIn (.write 0x10000000 [⟨0, 0xFF⟩]) .capture ∧ 0x10000000 - idle.active.captureBase.toNat < 4096
      ∧ (idle.hdr.placeBytes (strobedBytes 0 [⟨0, 0xFF⟩])).received ≠ BitVec.allOnes 64)
    ∧ (idle.takesIn (.write 0x10000000 (headerBurst 1)) .capture ∧ idle.cmd.run ≠ .running
      ∧ (idle.hdr.placeBytes (strobedBytes 0 (headerBurst 1))).received = BitVec.allOnes 64) := by decide +kernel

/-- R19: the fields of a header line at their offsets. -/
theorem test_header_fields :
    let h := HeaderUnit.reset.placeBytes (strobedBytes 0 (burstOf (headerLine 101 180 30000 1234567 0x5A3C0001)))
    h.marker = 0x7E51A3D2 ∧ h.seq = 101 ∧ h.temperature = 180 ∧ h.exposure = 30000 ∧ h.timestamp = 1234567
      ∧ h.runTag = 0x5A3C0001 ∧ h.lineSum % 65536 = 0 := by decide +kernel

/-- RUNNING with no subframe open, in a lock state with a last sequence and a bad-run count. -/
def lockedAt (lock : Lock) (last : BitVec 16) (badRun : Nat) : State :=
  { running with hdr := { HeaderUnit.reset with lock := lock, last := last, badRun := badRun } }

/-- A header burst whose check word is wrong, and one of another run's tag. -/
def badBurst : List Beat := burstOf (headerLine 5 180 30000 0 0 + 1)
def foreignBurst : List Beat := burstOf (headerLine 5 180 30000 0 7)

/-- A burst completes a header in a state where the lock can move, and the verdict on it. -/
def completesWith (s : State) (beats : List Beat) (bad foreign : Bool) : Bool :=
  let h := s.hdr.placeBytes (strobedBytes 0 beats)
  decide (s.takesIn (.write 0x10000000 beats) .capture) && decide (h.received = BitVec.allOnes 64)
    && decide (s.cmd.run = .running) && decide (s.hdr.opened = none)
    && (decide (h.marker ≠ 0x7E51A3D2 ∨ h.lineSum % 65536 ≠ 0 ∨ h.exposure = 0) == bad)
    && (decide (h.runTag ≠ s.cmd.snap.runTag) == foreign)

theorem witness_HeaderMovesTheLock_bad :
    completesWith (lockedAt .hunt 4 0) badBurst true false = true ∧ completesWith (lockedAt .probe 4 0) badBurst true false = true
      ∧ completesWith (lockedAt .locked 4 2) badBurst true false = true
      ∧ completesWith (lockedAt .locked 4 1) badBurst true false = true := by decide +kernel

theorem witness_HeaderMovesTheLock_valid :
    completesWith (lockedAt .locked 4 0) foreignBurst false true = true
      ∧ completesWith (lockedAt .hunt 4 0) (headerBurst 5) false false = true
      ∧ completesWith (lockedAt .probe 4 0) (headerBurst 5) false false = true := by decide +kernel

/-- The distances 1, 2, 0, 1, 32768 and 32769 from the last sequence at which the clauses of PROBE and LOCKED meet. -/
theorem witness_HeaderMovesTheLock_distances :
    ((5 : BitVec 16) - 4).toNat = 1 ∧ ((5 : BitVec 16) - 3).toNat = 2 ∧ ((5 : BitVec 16) - 5).toNat = 0
      ∧ ((5 : BitVec 16) - 32773).toNat = 32768 ∧ ((5 : BitVec 16) - 32772).toNat = 32769
      ∧ completesWith (lockedAt .probe 3 0) (headerBurst 5) false false = true
      ∧ completesWith (lockedAt .locked 5 0) (headerBurst 5) false false = true
      ∧ completesWith (lockedAt .locked 4 0) (headerBurst 5) false false = true
      ∧ completesWith (lockedAt .locked 32773 0) (headerBurst 5) false false = true
      ∧ completesWith (lockedAt .locked 32772 0) (headerBurst 5) false false = true := by decide +kernel

/-- A full run, and a DARK run whose reference exposure is another: the two cases of R30. -/
theorem witness_HeaderMovesTheLock_dispositions :
    (let s := lockedAt .locked 4 0
     completesWith { s with hdr := { s.hdr with folded := 65535 } } (headerBurst 5) false false = true)
    ∧ (let s := { lockedAt .probe 4 0 with
        cmd := { running.cmd with mode := .dark }, dark := ⟨[], 0, 20000, true⟩ }
       completesWith s (headerBurst 5) false false = true
        ∧ (s.hdr.placeBytes (strobedBytes 0 (headerBurst 5))).exposure ≠ s.dark.eref) := by decide +kernel

/-- A LIGHT run with a VALID slot, in LOCKED, and a DARK run, in PROBE, whose next header is FOLDED. -/
theorem witness_FoldedHeaderOpensASubframe :
    (let s := { lockedAt .locked 3 0 with
        cmd := { running.cmd with snap := { smallPlan with darkUse := true } }, dark := ⟨[(0, some validSlot)], 0, 0, false⟩ }
     completesWith s (headerBurst 5) false false = true ∧ s.cmd.mode = .light ∧ s.cmd.snap.darkUse = true
      ∧ s.dark.matching s.cmd.snap ≠ [])
    ∧ (let s := { lockedAt .probe 4 0 with
        cmd := { running.cmd with mode := .dark }, dark := ⟨[], -7, 30000, true⟩ }
       let h := s.hdr.placeBytes (strobedBytes 0 (headerBurst 5))
       completesWith s (headerBurst 5) false false = true ∧ s.cmd.mode = .dark ∧ h.exposure = s.dark.eref
        ∧ -(2 : Int) ^ 63 ≤ s.dark.tempSum.toInt + h.temperature.toInt
        ∧ s.dark.tempSum.toInt + h.temperature.toInt < 2 ^ 63) := by decide +kernel

/-- Subframe 2 is complete and the span is 2, so the next header starts an automatic checkpoint. -/
def dueForCheckpoint : State :=
  { withOpen 2 2048 with cmd := { running.cmd with snap := { smallPlan with span := 2 } } }

theorem witness_HeaderStartsAutomaticCheckpoint :
    let s := dueForCheckpoint
    s.takesIn (.write 0x10000000 (headerBurst 5)) .capture
      ∧ (s.hdr.placeBytes (strobedBytes 0 (headerBurst 5))).received = BitVec.allOnes 64 ∧ s.cmd.run = .running
      ∧ s.hdr.opened = some (openOf 2 2048) ∧ s.cmd.snap.span ≠ 0 ∧ (openOf 2 2048).index.toNat % s.cmd.snap.span.toNat = 0
      ∧ s.cmd.snap.width.toNat / 32 * s.cmd.snap.height.toNat ≤ (openOf 2 2048).landed := by decide +kernel

/-- The span 0, and a fold index that is no multiple of the span: no checkpoint is due; one block is missing. -/
theorem witness_HeaderStartsAutomaticCheckpoint_short :
    (let s := withOpen 2 2047
     s.takesIn (.write 0x10000000 (headerBurst 5)) .capture ∧ s.cmd.run = .running
      ∧ (s.hdr.placeBytes (strobedBytes 0 (headerBurst 5))).received = BitVec.allOnes 64
      ∧ s.hdr.opened = some (openOf 2 2047) ∧ s.cmd.snap.span = 0
      ∧ (openOf 2 2047).landed < s.cmd.snap.width.toNat / 32 * s.cmd.snap.height.toNat)
    ∧ (let s := { dueForCheckpoint with hdr := { dueForCheckpoint.hdr with opened := some (openOf 3 0) } }
       s.takesIn (.write 0x10000000 (headerBurst 5)) .capture ∧ s.hdr.opened = some (openOf 3 0)
        ∧ ¬(openOf 3 0).index.toNat % s.cmd.snap.span.toNat = 0) := by decide +kernel

theorem witness_BurstsThatLandNothing_malformed :
    idle.takesIn (.write 0x10001000 (List.replicate 7 ⟨0, 0xFF⟩)) .capture
      ∧ (idle.takesIn (.write 0x10001008 (List.replicate 8 ⟨0, 0xFF⟩)) .capture ∧ 0x10001008 % 64 ≠ 0)
      ∧ (idle.takesIn (.write 0x10020FC0 (List.replicate 8 ⟨0, 0xFE⟩)) .capture) := by decide

/-- IDLE with a pitch 64 bytes above 2W. -/
def padded : State :=
  { idle with cmd := { idle.cmd with plan := { idle.cmd.plan with frozen := { smallPlan with pitch := 576 } } } }

theorem witness_BurstsThatLandNothing_idle :
    (padded.takesIn (.write 0x100011C0 (List.replicate 8 ⟨0, 0xFF⟩)) .capture ∧ padded.hdr.opened = none
      ∧ padded.cache.sectors = [] ∧ 0x1C0 % padded.active.pitch.toNat < 2 * padded.active.width.toNat)
    ∧ (padded.takesIn (.write 0x10001200 (List.replicate 8 ⟨0, 0xFF⟩)) .capture
      ∧ ¬0x200 % padded.active.pitch.toNat < 2 * padded.active.width.toNat)
    ∧ padded.takesIn (.write 0x100011C0 (List.replicate 16 ⟨0, 0xFF⟩)) .capture := by decide

/-- The last two blocks of the image have landed already in the open subframe, and are sent again in one burst. -/
theorem witness_BurstsThatLandNothing_repeat :
    let s := { withOpen 1 2 with hdr := { (withOpen 1 2).hdr with landing := [(2046, true), (2047, true)] } }
    s.takesIn (.write 0x10020F80 (List.replicate 16 ⟨0, 0xFF⟩)) .capture ∧ s.hdr.opened ≠ none
      ∧ Table.get false s.hdr.landing (0x1FF80 / 512 * 8 + 0x1FF80 % 512 / 64) = true
      ∧ Table.get false s.hdr.landing (0x1FFC0 / 512 * 8 + 0x1FFC0 % 512 / 64) = true := by decide

/-- With a subframe open: the last block of row 0, which has landed, beside the padding of a pitch above 2W. -/
def paddedOpen : State :=
  { withOpen 1 1 with
    cmd := { running.cmd with snap := { smallPlan with pitch := 576 } }
    hdr := { (withOpen 1 1).hdr with landing := [(7, true)] } }

theorem witness_BurstsThatLandNothing_padding :
    paddedOpen.takesIn (.write 0x100011C0 (List.replicate 16 ⟨0, 0xFF⟩)) .capture ∧ paddedOpen.hdr.opened ≠ none
      ∧ Table.get false paddedOpen.hdr.landing (0x1C0 / 576 * 8 + 0x1C0 % 576 / 64) = true
      ∧ ¬(0x1C0 + 64) % 576 < 2 * paddedOpen.active.width.toNat := by decide

/-- `n` beats with every strobe set. -/
def fullBeats (n : Nat) : List Beat := List.replicate n ⟨0, 0xFF⟩

/-- The open subframe of `darkRun`, and one that uses slots 0 and 2. -/
def oneSlot : Subframe := { openOf 1 0 with choice := ⟨some ⟨0, 4096⟩, none, 0⟩ }
def twoSlots : Subframe := { openOf 1 0 with choice := ⟨some ⟨0, 4096⟩, some ⟨2, 99⟩, 33⟩ }

/-- `darkRun` with slot 0 at a base and slot 2 at another, the subframe using both. -/
def darkTwo (a b : BitVec 32) : State :=
  { darkRun with
    hdr := { darkRun.hdr with opened := some twoSlots }
    dark := ⟨[(0, some { validSlot with base := a }), (2, some { validSlot with base := b })], 0, 0, false⟩ }

/-- With one slot and with two: the last block of the image alone, and the last two in one burst. -/
theorem witness_BlockLandsAndItsFetchIsRequested :
    (oneSlot.choice.a = some ⟨0, 4096⟩ ∧ oneSlot.choice.b = none ∧ darkRun.dark.slot 0 = some validSlot
      ∧ darkRun.landsOne oneSlot 0x10020FC0 (fullBeats 8) 0x1FFC0 (fullBeats 8) (darkRun.landing oneSlot 2047)
      ∧ darkRun.landsBoth oneSlot 0x10020F80 (fullBeats 16) 0x1FF80
        ((darkRun.landing oneSlot 2046).landing { oneSlot with landed := 1 } 2047))
    ∧ ∀ a b, twoSlots.choice.a = some ⟨0, 4096⟩ ∧ twoSlots.choice.b = some ⟨2, 99⟩
      ∧ (darkTwo a b).dark.slot 0 = some { validSlot with base := a }
      ∧ (darkTwo a b).dark.slot 2 = some { validSlot with base := b } :=
  ⟨⟨rfl, rfl, rfl, ⟨_, by decide, by decide, by decide, .inl ⟨rfl, rfl, rfl, rfl⟩⟩,
    by decide, rfl, by decide, by decide, by decide, by decide, by decide, rfl⟩, fun _ _ => ⟨rfl, rfl, rfl, rfl⟩⟩

/-- The last block of row 0 under two slots, alone in its burst: a plane that reaches past 2^31, one that is not aligned, and
one whose last rows alone lie past 2^31. -/
theorem witness_BlockLandsAndItsFetchIsRequested_failed :
    let s := darkTwo 0x7FFFC7E0 0x7FFFC800
    s.landsOne twoSlots 0x100011C0 (fullBeats 8) 0x1C0 (fullBeats 8) (s.landing twoSlots 7)
      ∧ (0x7FFFC7E0 + 7 * 2048) % 64 ≠ 0 ∧ 2147483648 ≤ 0x7FFFC800 + 7 * 2048 ∧ 0x7FFFC7C0 + 7 * 2048 + 64 = 2147483648 :=
  ⟨⟨_, by decide, by decide, by decide, .inl ⟨rfl, rfl, rfl, rfl⟩⟩, by decide⟩

/-- A burst of 16 beats of which the first block has landed, or the second, or which ends in padding: one block lands. -/
theorem witness_BlockLandsAndItsFetchIsRequested_one :
    (let s := { darkRun with hdr := { darkRun.hdr with landing := [(2046, true)] } }
     s.landsOne oneSlot 0x10020F80 (fullBeats 16) 0x1FFC0 (fullBeats 8) ((count .repeatBlocks 1 s).landing oneSlot 2047))
    ∧ (let s := { darkRun with hdr := { darkRun.hdr with landing := [(2047, true)] } }
       s.landsOne oneSlot 0x10020F80 (fullBeats 16) 0x1FF80 (fullBeats 8) (count .repeatBlocks 1 (s.landing oneSlot 2046)))
    ∧ (let s := { darkRun with cmd := { darkRun.cmd with snap := { smallPlan with darkUse := true, pitch := 576 } } }
       s.landsOne oneSlot 0x100011C0 (fullBeats 16) 0x1C0 (fullBeats 8) (s.landing oneSlot 7)) :=
  ⟨⟨0x1FF80, by decide, by decide, by decide, .inr (.inr ⟨by decide, rfl, rfl, by decide, rfl⟩)⟩,
    ⟨0x1FF80, by decide, by decide, by decide, .inr (.inl ⟨by decide, rfl, rfl, by decide, rfl⟩)⟩,
    ⟨0x1C0, by decide, by decide, by decide, .inr (.inl ⟨by decide, rfl, rfl, by decide, rfl⟩)⟩⟩

/-- What BlockFoldsIntoItsTile asks of the last block of the image, alone in its burst. -/
abbrev landsLast (s : State) (sub : Subframe) : Prop :=
  s.takesImage sub 0x10020FC0 (fullBeats 8) 0x1FFC0 ∧ sub.choice = ⟨none, none, 0⟩ ∧ s.cmd.snap.hasBlock 0x1FFC0
    ∧ s.cmd.snap.markAt 0x1FFC0 = 2047 ∧ Table.get false s.hdr.landing 2047 = false

/-- The block lands; the classes and the cache are then those of `s`. -/
theorem landsLast_landsOne {s : State} {sub : Subframe} (h : landsLast s sub) :
    s.landsOne sub 0x10020FC0 (fullBeats 8) 0x1FFC0 (fullBeats 8) (s.landing sub 2047) :=
  ⟨_, h.1, h.2.2.1, by
    show ¬Table.get false s.hdr.landing (s.cmd.snap.markAt 0x1FFC0) = true
    rw [h.2.2.2.1, h.2.2.2.2]; decide, .inl ⟨rfl, rfl, rfl, by rw [h.2.2.2.1]⟩⟩

/-- Bursts of 16 beats: the last two blocks of the image both land; one has landed before; one is padding. -/
theorem witness_BlockFoldsIntoItsTile_two :
    (withOpen 1 0).landsBoth (openOf 1 0) 0x10020F80 (fullBeats 16) 0x1FF80
      (((withOpen 1 0).landing (openOf 1 0) 2046).landing (openOf 1 1) 2047)
    ∧ (let s := { withOpen 1 0 with hdr := { (withOpen 1 0).hdr with landing := [(2046, true)] } }
       s.landsOne (openOf 1 0) 0x10020F80 (fullBeats 16) 0x1FFC0 (fullBeats 8)
        ((count .repeatBlocks 1 s).landing (openOf 1 0) 2047))
    ∧ (let s := { withOpen 1 0 with cmd := { running.cmd with snap := { smallPlan with pitch := 576 } } }
       s.landsOne (openOf 1 0) 0x100011C0 (fullBeats 16) 0x1C0 (fullBeats 8) (s.landing (openOf 1 0) 7)) :=
  ⟨⟨by decide, rfl, by decide, by decide, by decide, by decide, by decide, rfl⟩,
    ⟨0x1FF80, by decide, by decide, by decide, .inr (.inr ⟨by decide, rfl, rfl, by decide, rfl⟩)⟩,
    ⟨0x1C0, by decide, by decide, by decide, .inr (.inl ⟨by decide, rfl, rfl, by decide, rfl⟩)⟩⟩

/-- The open subframe of index 1, and one turned by a quarter. -/
def withTurn : State := { withOpen 1 0 with hdr := { (withOpen 1 0).hdr with opened := some { openOf 1 0 with c := 0, s := 2 ^ 30 } } }

theorem witness_BlockFoldsIntoItsTile_dropped :
    (let s := { withOpen 1 0 with classes := [(63, .exclude)] }
     landsLast s (openOf 1 0) ∧ s.classOf 63 = .exclude)
    ∧ (let s := { withTurn with classes := [(63, .track)] }
       landsLast s { openOf 1 0 with c := 0, s := 2 ^ 30 } ∧ s.classOf 63 = .track
        ∧ ∀ col, col < 32 → destination smallPlan 0 (2 ^ 30) (32 * 7 + col) 255 = none) := by decide +kernel

/-- A free sector of an untouched tile, a sector that holds the tile, and a touched tile that no sector holds. -/
theorem witness_BlockFoldsIntoItsTile_straight :
    (landsLast (withOpen 1 0) (openOf 1 0) ∧ (withOpen 1 0).classOf 63 = .ground
      ∧ (withOpen 1 0).servesFold 0 63 ⟨.clean, 63, false, false, ⟨0, 0, 64, 0, 0⟩, []⟩)
    ∧ (let s := { caching (sectorOf .dirty 63) none none none (withOpen 1 0) with classes := [(63, .track)] }
       landsLast s (openOf 1 0) ∧ s.classOf 63 = .track ∧ (openOf 1 0).c = 2 ^ 30 ∧ (openOf 1 0).s = 0
        ∧ s.servesFold 0 63 (sectorOf .dirty 63))
    ∧ (let s := { withOpen 1 0 with cache := { TileCache.reset with touched := [(63, true)] } }
       landsLast s (openOf 1 0) ∧ s.cache.takes 0 ∧ s.cache.isTouched 63 = true ∧ s.cache.lacks 63) :=
  ⟨⟨by decide, by decide, .inr ⟨⟨by decide, .inl ⟨rfl, fun _ h => absurd h (Nat.not_lt_zero _)⟩⟩,
      fun _ _ _ h => (nomatch h), rfl, rfl⟩⟩,
    ⟨by decide, by decide, rfl, rfl, .inl ⟨⟨by decide, rfl, rfl, fun _ _ h => absurd h (Nat.not_lt_zero _)⟩, .inr rfl⟩⟩,
    ⟨by decide, ⟨by decide, .inl ⟨rfl, fun _ h => absurd h (Nat.not_lt_zero _)⟩⟩, rfl, fun _ _ _ h => (nomatch h)⟩⟩

/-- The open subframe of index 1 with all 32 sectors in use, tile k in sector k, sector 0 the least recent. -/
def crowded (st : SectorState) : State :=
  { withOpen 1 0 with
    cache := ⟨(List.range 32).map fun k => (k, some (sectorOf st k)), (List.range 32).reverse, [(63, true)], none, none, none,
      none⟩ }

/-- Every sector of `crowded` is in use and holds another tile than 63. -/
theorem crowded_sectors (st : SectorState) (k : Nat) (h : k < 32) : (crowded st).cache.sector k = some (sectorOf st k) := by
  interval_cases k <;> rfl

/-- The tile's own sector is FILLING. -/
theorem witness_BlockFoldsIntoItsTile_filling :
    let s := caching (sectorOf .filling 63) (some ⟨63, 0, 96, 3, false, []⟩) none none (withOpen 1 0)
    landsLast s (openOf 1 0) ∧ s.cache.keeps 0 63 (sectorOf .filling 63) :=
  ⟨by decide, by decide, rfl, rfl, fun _ _ h => absurd h (Nat.not_lt_zero _)⟩

/-- A CLEAN victim is taken for the touched tile 63, a DIRTY one is evicted, and with every sector FILLING none is eligible. -/
theorem witness_BlockFoldsIntoItsTile_victims :
    (∀ st, landsLast (crowded st) (openOf 1 0) ∧ (crowded st).cache.lacks 63 ∧ (crowded st).cache.isTouched 63 = true)
    ∧ (crowded .clean).cache.takes 0
    ∧ ((crowded .dirty).cache.leaves 0 ∧ (crowded .dirty).cache.sector 0 = some (sectorOf .dirty 0))
    ∧ ((∀ k, k < 32 → (crowded .filling).cache.sector k ≠ none)
      ∧ ∀ k, k ∈ (crowded .filling).cache.recency → ¬(crowded .filling).cache.mayLeave k) := by
  have used (st : SectorState) (k : Nat) (h : k < 32) : (crowded st).cache.sector k ≠ none := by
    rw [crowded_sectors st k h]; exact fun h => nomatch h
  have order : (List.range 32).reverse = ((List.range 31).map (· + 1)).reverse ++ 0 :: [] := by decide
  refine ⟨fun st => ⟨by cases st <;> decide, fun k x hk h => ?_, rfl⟩, ⟨by decide, .inr ⟨⟨used _, _, _, order, ⟨_, rfl, rfl, .inl rfl⟩,
    fun _ h => nomatch h⟩, rfl⟩⟩, ⟨⟨used _, _, _, order, ⟨_, rfl, rfl, .inr ⟨rfl, rfl⟩⟩, fun _ h => nomatch h⟩, rfl⟩, used _, ?_⟩
  · rw [crowded_sectors st k hk] at h
    cases h
    exact fun e => by simp only [sectorOf] at e; omega
  · rintro k hk ⟨x, h, -, e⟩
    have hk : k < 32 := by simpa using List.mem_range.mp (List.mem_reverse.mp hk)
    rw [crowded_sectors _ k hk] at h
    cases h
    exact e.elim (fun e => nomatch e) fun e => nomatch e.1

/-- Turned by a half turn about the middle of the image: the last block of tile 63 comes to the first columns of tile 0. -/
def turnedRun : State :=
  let s := withOpen 1 0
  { s with
    hdr := { s.hdr with opened := some { openOf 1 0 with c := -(2 ^ 30) } }
    cmd := { s.cmd with snap := { s.cmd.snap with poleA := 1016, poleB := 1016 } }
    classes := [(0, .track), (63, .track)]
    cache := ⟨[(0, some (sectorOf .clean 0))], [0], [], none, none, none, none⟩ }

theorem witness_BlockFoldsIntoItsTile_turned :
    (landsLast turnedRun { openOf 1 0 with c := -(2 ^ 30) } ∧ turnedRun.classOf 63 = .track)
    ∧ (turnedRun.classOf 0 = .track ∧ turnedRun.cache.keeps 0 0 (sectorOf .clean 0))
    ∧ ((List.range 32).all fun col =>
        (destination turnedRun.cmd.snap (-(2 ^ 30)) 0 (32 * 7 + col) 255).any fun p =>
          decide (p.2 / 32 * (turnedRun.cmd.snap.width.toNat / 32) + p.1 / 32 = 0)) = true :=
  ⟨by decide +kernel, ⟨by decide, by decide, rfl, rfl, fun _ _ h => absurd h (Nat.not_lt_zero _)⟩, by decide +kernel⟩

/-- Turned by a half turn a little to the right: samples 0 to 7 of the last block come to tile 1, untouched and in no sector,
and are folded into one taken fresh; the others come to tile 0, touched and in no sector: sample 8 waits for its fill. -/
def turnedApart : State :=
  { turnedRun with
    cmd := { turnedRun.cmd with snap := { smallPlan with poleA := 1048, poleB := 1016 } }
    classes := [(0, .track), (1, .track), (63, .track)]
    cache := { TileCache.reset with touched := [(0, true)] } }

theorem witness_BlockFoldsIntoItsTile_apart :
    let t := after (.captureWrite 0x10020FC0 (fullBeats 8)) turnedApart
    landsLast turnedApart { openOf 1 0 with c := -(2 ^ 30) }
      ∧ (match t.inHand with
        | some (.capture ⟨some g, []⟩) => decide (g.column = 8)
        | _ => false) = true
      ∧ t.cache.fill = some ⟨0, 1, 0, 0, false, []⟩ ∧ t.counter .spilled = 0
      ∧ ((t.cache.sector 0).map fun x => (x.tile, x.held, decide (x.state = .dirty), (x.rec_ (32 + 6)).n))
        = some (1, true, true, 1) := by decide +kernel

theorem witness_BlockDecodingFollowsItsCodes :
    isPermutation (0xE4 : BitVec 8) = true ∧ isPermutation (0x1B : BitVec 8) = true
      ∧ (List.replicate 8 (⟨0, 0xFF⟩ : Beat)).length = 8 := by decide

/-- The clauses at their edges: the stamp equal and one below, the raw value at satlevel and below, n at nwarm and below,
the distance at the bound 120 and above. -/
theorem witness_SampleAtItsRecord :
    let r : Rec := ⟨4800, 4, 40, 1290, 7⟩
    (7 : BitVec 16).toNat ≤ r.stamp.toNat ∧ r.stamp.toNat < (8 : BitVec 16).toNat
      ∧ Frozen.reset.satlevel.toNat ≤ (65535 : BitVec 16).toNat ∧ (65534 : BitVec 16).toNat < Frozen.reset.satlevel.toNat
      ∧ r.n ≠ 0 ∧ Frozen.reset.nwarm.toNat ≤ r.n.toNat ∧ (2 : BitVec 16).toNat < Frozen.reset.nwarm.toNat
      ∧ r.distance 1320 = 120 ∧ r.bound Frozen.reset = 120 ∧ r.distance 1321 = 121 := by decide

/-- Plane values of each kind, an Eref of 0 and not, a record with n 0 and one at the threshold and below. -/
theorem witness_DarkAndPlaneValues :
    (0xFFFE : BitVec 16) ≠ 0xFFFF ∧ exposureScale 1 0 = 65535 ∧ exposureScale 1 4096 = 1 ∧ (freshRec 64).n = 0
      ∧ planeValue 10 ⟨10, 1, 0, 0, 0⟩ = 0xFFFF ∧ planeValue 11 ⟨10, 1, 0, 0, 0⟩ = 10 := by decide

/-- With t0 unset, and set above and below the middle of the exposure. -/
theorem witness_PhaseIsRateTimesElapsed :
    (⟨7, false, 0, 0, 0⟩ : RotationUnit).elapsed 5 = 0 ∧ (⟨7, true, 0, 0, 0⟩ : RotationUnit).elapsed 5 = -2
      ∧ (⟨5, true, 0, 0, 0⟩ : RotationUnit).elapsed 7 = 2 := by decide

theorem witness_SlotChoiceOfASubframe :
    (⟨[(0, some validSlot)], 0, 0, false⟩ : DarkUnit).matching smallPlan ≠ [] := by decide

theorem witness_ExcludePixelsShowTheFill :
    (let s := { running with classes := [(63, .exclude)] }
     s.cmd.mode = .light ∧ s.classOf (255 / 32 * (s.active.width.toNat / 32) + 255 / 32) = .exclude)
    ∧ endedDark.cmd.mode = .dark := by decide

/-- ENDED with tile 0 in a CLEAN sector whose first record is `r`. -/
def recorded (r : Rec) : State :=
  { inRun .ended .light with
    cache := ⟨[(0, some ⟨.clean, 0, false, false, ⟨0, 0, 64, 0, 0⟩, [(0, r)]⟩)], [0], [(0, true)], none, none, none, none⟩ }

theorem witness_FinishedValueOfARecord :
    ((recorded ⟨0, 0, 64, 65535, 1⟩).finishClass ((recorded ⟨0, 0, 64, 65535, 1⟩).active.tileOf 0 0) ≠ .exclude
      ∧ ∃ t, readRecord smallPlan 0 0 (recorded ⟨0, 0, 64, 65535, 1⟩) = .got t ⟨0, 0, 64, 65535, 1⟩)
    ∧ ∃ t, readRecord smallPlan 0 0 (recorded ⟨6051, 5, 42, 4931, 9⟩) = .got t ⟨6051, 5, 42, 4931, 9⟩ :=
  ⟨⟨by decide, ⟨_, rfl⟩⟩, ⟨_, rfl⟩⟩

/-- Pixel 2 of tile 0 has n 0 and peak 5; its left neighbour is usable. Pixel 4 has no usable neighbour.
The left neighbour of pixel 0 lies off the image, its right one is usable. -/
theorem witness_FinishedValueOfARecord_neighbours :
    (let s := { recorded ⟨6051, 5, 42, 4931, 9⟩ with cache := { (recorded ⟨6051, 5, 42, 4931, 9⟩).cache with
        sectors := [(0, some ⟨.clean, 0, false, false, ⟨0, 0, 64, 0, 0⟩, [(0, ⟨6051, 5, 42, 4931, 9⟩), (2, ⟨0, 0, 64, 5, 9⟩)]⟩)] } }
     (∃ t, readRecord smallPlan 2 0 s = .got t ⟨0, 0, 64, 5, 9⟩
        ∧ ∃ u, readRecord smallPlan 0 0 t = .got u ⟨6051, 5, 42, 4931, 9⟩)
      ∧ s.finishClass (smallPlan.tileOf 0 0) ≠ .exclude
      ∧ ∃ t, readRecord smallPlan 4 0 s = .got t ⟨0, 0, 64, 0, 0⟩ ∧ ∃ u, readRecord smallPlan 2 0 t = .got u ⟨0, 0, 64, 5, 9⟩
        ∧ ∃ w, readRecord smallPlan 6 0 u = .got w ⟨0, 0, 64, 0, 0⟩)
    ∧ (let s := { recorded ⟨0, 0, 64, 5, 1⟩ with cache := { (recorded ⟨0, 0, 64, 5, 1⟩).cache with
        sectors := [(0, some ⟨.clean, 0, false, false, ⟨0, 0, 64, 0, 0⟩, [(0, ⟨0, 0, 64, 5, 1⟩), (2, ⟨6051, 5, 42, 4931, 9⟩)]⟩)] } }
       ∃ t, readRecord smallPlan 0 0 s = .got t ⟨0, 0, 64, 5, 1⟩ ∧ ¬2 ≤ 0 ∧ 0 + 2 < smallPlan.width.toNat
        ∧ ∃ w, readRecord smallPlan 2 0 t = .got w ⟨6051, 5, 42, 4931, 9⟩) :=
  ⟨⟨⟨_, rfl, _, rfl⟩, by decide, _, rfl, _, rfl, _, rfl⟩, ⟨_, rfl, by decide, by decide, _, rfl⟩⟩

theorem witness_ResultReadsAreFinishedPixelByPixel :
    (running.takesIn (.read 0x10100000 16) .image ∧ running.cache.sectors = [] ∧ running.active.pitch.toNat % 64 = 0)
    ∧ (running.takesIn (.read 0x102FFFF8 1) .coverage ∧ ∀ tile, running.cache.isTouched tile = false) :=
  ⟨by decide, ⟨by decide, fun _ => rfl⟩⟩

/-- A read of eight beats of tile 0, held CLEAN with n 1 at every record, in both views; and tile 0 touched but in no sector. -/
theorem witness_ResultReadsAreFinishedPixelByPixel_records :
    (let x : Sector := ⟨.clean, 0, false, false, ⟨0, 0, 64, 0, 0⟩, (List.range 32).map fun k => (k, ⟨7, 1, 64, 7, 1⟩)⟩
     let s := caching x none none none (inRun .ended .light)
     (s.takesIn (.read 0x10100000 8) .image ∧ s.takesIn (.read 0x10200000 8) .coverage ∧ s.finishClass 0 ≠ .exclude)
      ∧ s.cache.keeps 0 0 x
      ∧ (List.range 32).all (fun k => decide (2 * k / 512 / 32 * 8 + 2 * k % 512 / 2 / 32 = 0
          ∧ (x.rec_ (2 * k / 512 % 32 * 32 + 2 * k % 512 / 2 % 32)).n ≠ 0)) = true)
    ∧ (let s := { inRun .ended .light with cache := { TileCache.reset with touched := [(0, true)] } }
       s.takesIn (.read 0x10100000 1) .image ∧ s.takesIn (.read 0x10200000 1) .coverage ∧ s.finishClass 0 ≠ .exclude
        ∧ s.cache.isTouched 0 = true ∧ s.cache.lacks 0 ∧ s.cache.takes 0) :=
  ⟨⟨by decide, ⟨by decide, rfl, rfl, fun _ _ h => absurd h (Nat.not_lt_zero _)⟩, by decide +kernel⟩,
    ⟨by decide, by decide, by decide, rfl, fun _ _ _ h => (nomatch h),
      ⟨by decide, .inl ⟨rfl, fun _ h => absurd h (Nat.not_lt_zero _)⟩⟩⟩⟩

/-- A read of the first pixel of tile 63, touched and in no sector, with a DIRTY victim or none eligible
(`witness_BlockFoldsIntoItsTile_victims` says so of `crowded`); and of one whose sector is FILLING. -/
theorem witness_ResultReadsAreFinishedPixelByPixel_victims :
    (∀ st, (crowded st).takesIn (.read 0x1011C1C0 1) .image ∧ (crowded st).finishClass 63 ≠ .exclude
      ∧ (crowded st).cache.isTouched (0x1C1C0 / 512 / 32 * 8 + 0x1C1C0 % 512 / 2 / 32) = true)
    ∧ (let s := caching (sectorOf .filling 63) (some ⟨63, 0, 96, 3, false, []⟩) none none running
       let t := { s with cache := { s.cache with touched := [(63, true)] } }
       t.takesIn (.read 0x1011C1C0 1) .image ∧ t.cache.isTouched 63 = true ∧ t.cache.keeps 0 63 (sectorOf .filling 63)) :=
  ⟨fun st => by cases st <;> decide, ⟨by decide, rfl, by decide, rfl, rfl, fun _ _ h => absurd h (Nat.not_lt_zero _)⟩⟩

/-- Reads that span two tiles, of which tile 0 holds n 5 at pixels 28 and 29 alone: tile 1 EXCLUDE, so pixels 30 and 31 show
their left neighbours and tile 1 the fill value; and tile 1 touched and in no sector, where pixels 30 and 31 have no left
neighbour with n, so the read waits at pixel 30 for its right one. -/
theorem witness_ResultReadsAreFinishedPixelByPixel_lanes :
    let r : Rec := ⟨50, 5, 64, 10, 1⟩
    let s := caching ⟨.clean, 0, false, false, ⟨0, 0, 64, 0, 0⟩, [(28, r), (29, r)]⟩ none none none (inRun .ended .light)
    let u := { s with classes := [(1, .exclude)], cmd := { s.cmd with plan := { s.cmd.plan with fill := 3 } } }
    let v := { caching (sectorOf .clean 0) none none none (inRun .ended .light) with
      cache := ⟨[(0, some (sectorOf .clean 0))], [0], [(1, true)], none, none, none, none⟩ }
    u.takesIn (.read 0x10100038 2) .image ∧ v.takesIn (.read 0x10100038 2) .image
      ∧ (after (.resultRead 0x10100038 2) u).answers = [⟨.ok, [0x000A000A000A000A, 0x0003000300030003]⟩]
      ∧ (match (after (.resultRead 0x10100038 2) v).inHand with
        | some (.result rd) => decide (rd.lane = 2 ∧ rd.stage = .right ∧ rd.values.length = 2)
        | _ => false) = true
      ∧ (after (.resultRead 0x10100038 2) v).cache.fill = some ⟨1, 1, 0, 0, false, []⟩ := by decide +kernel

/-- The last four pixels of row 0 and the padding behind them. -/
theorem witness_ResultReadsAreFinishedPixelByPixel_padding :
    let s := { running with cmd := { running.cmd with snap := { smallPlan with pitch := 576 }, plan := { Plan.reset with fill := 9 } } }
    s.takesIn (.read 0x101001F8 2) .image
      ∧ (after (.resultRead 0x101001F8 2) s).answers = [⟨.ok, [0x0009000900090009, 0]⟩] := by decide +kernel

theorem witness_ReportReadIsOneCapture : idle.takesIn (.read (idle.reportAddr (0xFF8 : BitVec 12).toNat) 1) .report := by
  decide

/-- A carried request and a fill both present a transaction. -/
def contending : State :=
  { running with
    inHand := some (.through (.read 0x20000000 1) false)
    cache := { TileCache.reset with fill := some ⟨0, 0, 0, 0, false, []⟩ } }

theorem witness_GrantFollowsOrderAndPassCounts :
    ((after .resetLineAssert idle).resetLow = true
      ∧ 8 ≤ (List.replicate 8 (⟨.contextWrite, .read 0 1⟩ : Flight)).length ∧ ∀ r, idle.presents r = none)
    ∧ (contending.resetLow = false ∧ contending.arb.inFlight.length < 8
      ∧ contending.presents .passThrough = some (.passThrough, .read 0x20000000 1)
      ∧ (∀ q, contending.presents q = none ∨ contending.arb.passCounts.of q ≠ 16))
    ∧ (let s := { contending with arb := ⟨⟨0, 0, 16, 0, 0⟩, []⟩ }
       s.presents .sectorFill = some (.fill 0, .read 0x10300000 16) ∧ s.arb.passCounts.of .sectorFill = 16
        ∧ ∀ q, q ∈ [Requester.passThrough, .darkFetch] → s.presents q = none ∨ s.arb.passCounts.of q ≠ 16) := by
  refine ⟨⟨rfl, by decide, fun r => by cases r <;> rfl⟩, ⟨rfl, by decide, rfl, fun q => ?_⟩, rfl, rfl, ?_⟩
  · cases q <;> decide
  · decide

/-- A COMMIT_DARK whose plane write has failed: its slot is EMPTY and no plane write is presented. -/
theorem witness_GrantFollowsOrderAndPassCounts_failed :
    let s := { busy .commitDark endedDark with bulk := some (.planeWrite ⟨0, 0, 4000⟩ [] 3 1 true) }
    s.dark.slot 0 = none ∧ ¬((3 : Nat) < 16 ∧ true = false) ∧ s.presents .bulkMover = none := by decide

/-- A lone block with one slot; one that waits behind a fold which waits for a fill. -/
theorem witness_DarkFetchEndsItsFetch :
    (let b := fetching none
     let s := flyingOne (.darkFetch 0 0 false) { darkRun with inHand := some (.capture ⟨none, [b]⟩) }
     s.flying 0 (.darkFetch b.row b.block false) ∧ s.inHand = some (.capture ⟨none, [b]⟩) ∧ s.waiting = []
      ∧ b.fetchA = some ⟨0x10400000, 4096, .placed⟩ ∧ b.fetchB = none ∧ s.cache.isBusy = false)
    ∧ (secondFetching.flying 0 (.darkFetch (fetching none).row (fetching none).block false)
      ∧ secondFetching.inHand = some (.capture ⟨some waitingFold, [fetching none]⟩) ∧ secondFetching.waiting = []
      ∧ secondFetching.cache.isBusy = true) :=
  ⟨⟨⟨_, rfl⟩, rfl, rfl, rfl, rfl, rfl⟩, ⟨⟨_, rfl⟩, rfl, rfl, rfl⟩⟩

/-- Two landed blocks of rows 0 and 1 of tile 0 in hand, the fetch of the one that ends in flight. -/
def twoFetching (ends : Nat) (other : FetchState) : State :=
  let block (row : Nat) : Block :=
    ⟨row, 0, List.replicate 32 100, some ⟨0x10400000, 4096, if row = ends then .placed else other⟩, none, 0⟩
  flyingOne (.darkFetch ends 0 false) { darkRun with inHand := some (.capture ⟨none, [block 0, block 1]⟩) }

/-- R50: the end of the first's fetch folds it, and the second then if its own has ended, else that waits alone; the end of the
second's folds nothing while the first waits. A block whose fetch ends well behind a fold that waits for a fill waits. -/
theorem witness_DarkFetchEndsItsFetch_order :
    let folded (s : State) (row : Nat) := (s.cache.sector 0).map fun x => (x.rec_ (32 * row)).n
    (let t := after (.darkFetchEnd 0 .ok 0) (twoFetching 0 (.ended 0))
     t.inHand = none ∧ t.answers = [⟨.ok, []⟩] ∧ folded t 0 = some 1 ∧ folded t 1 = some 1)
    ∧ (let t := after (.darkFetchEnd 0 .ok 0) (twoFetching 0 .placed)
       t.blocksInHand.map (·.row) = [1] ∧ t.answers = [] ∧ folded t 0 = some 1 ∧ folded t 1 = some 0)
    ∧ (let t := after (.darkFetchEnd 0 .ok 0) (twoFetching 1 .placed)
       t.blocksInHand.map (·.row) = [0, 1] ∧ t.cache.sector 0 = none)
    ∧ (let t := after (.darkFetchEnd 0 .ok 0) secondFetching
       t.inHand = some (.capture ⟨some waitingFold, [{ fetching none with fetchA := some ⟨0x10400000, 4096, .ended 0⟩ }]⟩)) := by
  decide +kernel

/-- A lone block with two slots, the fetch of either ending, the other wanted, placed, failed or ended. -/
theorem witness_DarkFetchEndsItsFetch_two :
    ∀ (second : Bool) (other : FetchState),
      let f : Fetch := ⟨0x10400000, 4096, if second = true then other else .placed⟩
      let g : Fetch := ⟨0x13400000, 4096, if second = true then .placed else other⟩
      let b : Block := ⟨0, 0, List.replicate 32 100, some f, some g, 76⟩
      let s := flyingOne (.darkFetch 0 0 second) { darkRun with inHand := some (.capture ⟨none, [b]⟩) }
      s.flying 0 (.darkFetch b.row b.block second) ∧ s.inHand = some (.capture ⟨none, [b]⟩) ∧ s.waiting = []
        ∧ b.fetchA = some f ∧ b.fetchB = some g ∧ (if second = true then f else g).state = other
        ∧ s.cache.isBusy = false ∧ s.hdr.opened.isSome = true ∧ s.cmd.mode = .light :=
  fun second _ => by cases second <;> exact ⟨⟨_, rfl⟩, rfl, rfl, rfl, rfl, rfl, rfl, rfl, rfl⟩

/-- The block folds with dark values that are all hot, and with ones that are not, of one slot and of two, into a fresh
sector. -/
theorem witness_DarkFetchEndsItsFetch_fold :
    let b := fetching none
    let s := flyingOne (.darkFetch 0 0 false) { darkRun with inHand := some (.capture ⟨none, [b]⟩) }
    s.hdr.opened = some { openOf 1 0 with choice := ⟨some ⟨0, 4096⟩, none, 0⟩ }
    ∧ (s.cmd.mode = .light ∧ 32 * b.block + 32 ≤ s.cmd.snap.width.toNat ∧ b.row < s.cmd.snap.height.toNat
      ∧ s.classOf 0 = .ground)
    ∧ ((List.range 32).all fun col =>
        decide (darkOf (some ((BitVec.allOnes 512).extractLsb' (16 * col) 16, 4096)) none 0 = .hot)
        && decide (darkOf (some ((BitVec.allOnes 512).extractLsb' (16 * col) 16, 4096)) (some (0, 4096)) 76 = .hot)) = true
    ∧ darkOf (some ((0 : BitVec 512).extractLsb' (16 * 0) 16, 4096)) none 0 ≠ .hot
    ∧ darkOf (some ((0 : BitVec 512).extractLsb' (16 * 0) 16, 4096)) (some (7, 4096)) 76 ≠ .hot
    ∧ s.servesFold 0 0 ⟨.clean, 0, false, false, ⟨0, 0, 64, 0, 0⟩, []⟩ :=
  ⟨rfl, by decide, by decide +kernel, by decide +kernel, by decide +kernel,
    .inr ⟨⟨by decide, .inl ⟨rfl, fun _ h => absurd h (Nat.not_lt_zero _)⟩⟩, fun _ _ _ h => (nomatch h), rfl, rfl⟩⟩

/-- The first and the last read of a fill, and of a writeback the first and the last write. -/
theorem witness_FillEndsAtItsLastRead :
    ∀ ended, ended = 0 ∨ ended = 95 →
      let f : Fill := ⟨5, 0, 96, ended, false, []⟩
      let s := flyingOne (.fill 0) (caching (sectorOf .filling 5) (some f) none none running)
      s.flying 0 (.fill 0) ∧ s.cache.fill = some f ∧ s.waiting = [] ∧ s.cache.sector f.sector = some (sectorOf .filling 5)
        ∧ ∀ b, b ∈ s.blocksInHand → b.isLost = false :=
  fun _ _ => ⟨⟨_, rfl⟩, rfl, rfl, rfl, fun _ h => (nomatch h)⟩

theorem witness_EvictionEndsAtItsLastWrite :
    ∀ ended failed once, ended = 0 ∨ ended = 95 →
      let w : Writeback := ⟨0, false, 96, ended, failed⟩
      let x := { sectorOf .writing 5 with failedOnce := once }
      let s := flyingOne (.evict 0) (caching x none (some w) none running)
      s.flying 0 (.evict 0) ∧ s.cache.writeback = some w ∧ w.forFlush = false ∧ s.waiting = []
        ∧ s.cache.sector w.sector = some x ∧ ∀ b, b ∈ s.blocksInHand → b.isLost = false :=
  fun _ _ _ _ => ⟨⟨_, rfl⟩, rfl, rfl, rfl, rfl, fun _ h => (nomatch h)⟩

/-- Without and with a failure, a first or a second one, and an ABORT pending; sector 0 is the last DIRTY one. -/
theorem witness_FlushEndsAfterItsLastSector :
    ∀ (ended : Nat) (failed once aborting : Bool), ended = 0 ∨ ended = 95 →
      let w : Writeback := ⟨0, true, 96, ended, failed⟩
      let x := { sectorOf .writing 5 with failedOnce := once }
      let s := flyingOne (.flush 0) (caching x none (some w) (some ⟨0, false⟩)
        { running with cmd := { running.cmd with aborting := aborting } })
      s.flying 0 (.flush 0) ∧ s.cache.writeback = some w ∧ s.cache.sector w.sector = some x ∧ s.waiting = []
        ∧ w.forFlush = true ∧ w.failed = failed ∧ s.cache.flush = some ⟨0, false⟩ ∧ s.cmd.aborting = aborting
        ∧ ∀ k, w.sector < k → k < 32 → s.cache.stateIs k .dirty = false :=
  fun _ _ once _ _ => ⟨⟨_, rfl⟩, rfl, rfl, rfl, rfl, rfl, rfl, rfl, fun k hk _ => by
    show TileCache.stateIs ⟨[(0, some { sectorOf .writing 5 with failedOnce := once })], [0], [], some ⟨0, false⟩, none, _,
      none⟩ k .dirty = false
    cases k with
    | zero => exact absurd hk (Nat.lt_irrefl 0)
    | succ n => rfl⟩

/-- What waits in hand for tile 0: the fold of a block of 32 samples 100, or a read of its first four pixels. -/
def waitsForTile0 (reads : Bool) : InHand :=
  if reads then .result ⟨.coverage, smallPlan, 0, 1, 0, .own, []⟩ else .capture ⟨some waitingFold, []⟩

/-- RUNNING with that in hand and tile 0 touched: its fill at the 96th read, the eviction of tile 5 at its 96th write, or a
flush at the 96th write of tile 0. -/
def waitingAt (reads : Bool) (p : Purpose) (x : Sector) (fill : Option Fill) (w : Option Writeback) (fl : Option Flush) : State :=
  let s := flyingOne p (caching x fill w fl (withOpen 1 0))
  { s with inHand := some (waitsForTile0 reads), cache := { s.cache with touched := [(0, true)] } }

/-- The access is served: a fold ends with 32 records of n 1, a read shows the n read, and the hand is free. -/
theorem witness_FillEndsAtItsLastRead_hand :
    ∀ reads : Bool,
      let f : Fill := ⟨0, 0, 96, 95, false, []⟩
      let s := waitingAt reads (.fill 0) (sectorOf .filling 0) (some f) none none
      let t := after (.sectorFillEnd 0 .ok 0) s
      (s.flying 0 (.fill 0) ∧ s.cache.fill = some f ∧ s.waiting = [] ∧ (∀ b, b ∈ s.blocksInHand → b.isLost = false)
        ∧ (∀ w, s.cache.writeback = some w → w.forFlush = true))
      ∧ (t.inHand = none ∧ t.answers = [⟨.ok, if reads then [0] else []⟩]
        ∧ ((t.cache.sector 0).map fun x => (x.rec_ 31).n) = some (if reads then 0 else 1)) :=
  fun reads => ⟨⟨⟨_, rfl⟩, rfl, rfl, by cases reads <;> exact fun _ h => (nomatch h), fun _ h => (nomatch h)⟩, by
    revert reads; decide +kernel⟩

/-- With a sector FREE again the fill of tile 0 begins; the hand waits on. -/
theorem witness_EvictionEndsAtItsLastWrite_hand :
    ∀ reads : Bool,
      let w : Writeback := ⟨0, false, 96, 95, false⟩
      let s := waitingAt reads (.evict 0) (sectorOf .writing 5) none (some w) none
      let t := after (.evictionWritebackEnd 0 .ok) s
      (s.flying 0 (.evict 0) ∧ s.cache.writeback = some w ∧ s.cache.fill = none ∧ s.waiting = []
        ∧ ∀ b, b ∈ s.blocksInHand → b.isLost = false)
      ∧ (t.inHand = some (waitsForTile0 reads) ∧ t.cache.fill = some ⟨0, 0, 0, 0, false, []⟩) :=
  fun reads => ⟨⟨⟨_, rfl⟩, rfl, rfl, rfl, by cases reads <;> exact fun _ h => (nomatch h)⟩, by
    revert reads; decide +kernel⟩

/-- A fold that waits, with a block of row 1 behind it whose fetch has ended: at the last read of the fill both fold; at the
last write of an eviction both wait on for the fill of tile 0. -/
theorem witness_FillAndEvictionEnd_behind :
    let b : Block := ⟨1, 0, List.replicate 32 100, some ⟨0x10400000, 4096, .ended 0⟩, none, 0⟩
    let hand := some (InHand.capture ⟨some waitingFold, [b]⟩)
    (let s := { waitingAt false (.fill 0) (sectorOf .filling 0) (some ⟨0, 0, 96, 95, false, []⟩) none none with inHand := hand }
     let t := after (.sectorFillEnd 0 .ok 0) s
     t.inHand = none ∧ t.answers = [⟨.ok, []⟩]
      ∧ ((t.cache.sector 0).map fun x => ((x.rec_ 0).n, (x.rec_ 63).n)) = some (1, 1))
    ∧ (let s := { waitingAt false (.evict 0) (sectorOf .writing 5) none (some ⟨0, false, 96, 95, false⟩) none with inHand := hand }
       let t := after (.evictionWritebackEnd 0 .ok) s
       t.inHand = hand ∧ t.cache.fill = some ⟨0, 0, 0, 0, false, []⟩) := by decide +kernel

/-- A result read in hand at the end of a flush writeback: it is answered from the sector, CLEAN now. -/
theorem witness_FlushEndsAfterItsLastSector_hand :
    let w : Writeback := ⟨0, true, 96, 95, false⟩
    let s := waitingAt true (.flush 0) (sectorOf .writing 0) none (some w) (some ⟨0, false⟩)
    (s.flying 0 (.flush 0) ∧ s.cache.writeback = some w ∧ s.cache.flush = some ⟨0, false⟩ ∧ s.cmd.aborting = false
      ∧ s.waiting = [] ∧ s.cache.fill = none)
    ∧ (after (.flushWritebackEnd 0 .ok) s).answers = [⟨.ok, [0]⟩] :=
  ⟨⟨⟨_, rfl⟩, rfl, rfl, rfl, rfl, rfl⟩, by decide +kernel⟩

/-- A further DIRTY sector, 31, after the one written. -/
theorem witness_FlushEndsAfterItsLastSector_further :
    let s := caching (sectorOf .writing 5) none (some ⟨0, true, 96, 95, false⟩) (some ⟨0, false⟩) running
    let c := s.cache.setSector 31 (some (sectorOf .dirty 7))
    c.sector 31 = some (sectorOf .dirty 7) ∧ ∀ k, k < 31 → 0 < k → c.stateIs k .dirty = false := by decide

/-- Each saver at each step, the header burst in hand for the automatic checkpoint, and an ABORT pending. -/
theorem witness_ContextWriteEnds :
    ∀ (who : Saver) (step : Nat) (aborting : Bool), step = 0 ∨ step = 31 ∨ step = 32 →
      let op : BulkOp := .contextWrite 0x1C400000 [] false step true
      let r := { running with cmd := { running.cmd with saving := some who, aborting := aborting } }
      let s := moving .contextWrite op r
      let h := moving .contextWrite op { r with inHand := some .header }
      (s.flying 0 .contextWrite ∧ s.bulk = some op ∧ s.waiting = [] ∧ s.cmd.aborting = aborting ∧ s.cmd.saving = some who)
      ∧ (h.flying 0 .contextWrite ∧ h.bulk = some op ∧ h.waiting = [] ∧ h.inHand = some .header ∧ h.cmd.saving = some who) :=
  fun _ _ _ _ => ⟨⟨⟨_, rfl⟩, rfl, rfl, rfl, rfl⟩, ⟨⟨_, rfl⟩, rfl, rfl, rfl, rfl⟩⟩

/-- The first and the last read, with and without an earlier failure, and an ABORT pending. -/
theorem witness_ContextReadEnds :
    ∀ (ended : Nat) (failed aborting : Bool), ended = 0 ∨ ended = 31 →
      let op : BulkOp := .contextRead 0x1C400000 32 ended failed []
      let s := moving (.contextRead 0) op { idle with cmd := { idle.cmd with aborting := aborting } }
      s.flying 0 (.contextRead 0) ∧ s.bulk = some op ∧ s.waiting = [] ∧ s.cmd.aborting = aborting :=
  fun _ _ _ _ => ⟨⟨_, rfl⟩, rfl, rfl, rfl⟩

/-- The parts of a run context as RESUME has read all but the last. -/
def savedParts (s : State) : List (Nat × Chunk) := (List.range 31).map fun i => (i, s.contextParts.getD i 0)

/-- A record of zeros is not usable. A saved one is; with dark use set it meets the dark test with a VALID slot alone. -/
theorem witness_ContextReadEnds_records :
    fieldAt (imageOfParts 32 [(0, (1 : Chunk))]) 0 4 ≠ 0x4E58434B
    ∧ (let s := { running with cmd := { running.cmd with snap := { smallPlan with darkUse := true } } }
       let image := imageOfParts 32 (Table.set 0 (savedParts s) 31 (s.contextParts.getD 31 0))
       let f := Frozen.ofImage image 32
       fieldAt image 0 4 = 0x4E58434B ∧ fieldAt image 4 2 = 1 ∧ wordSum 2048 image % 65536 = 0 ∧ fieldAt image 8 1 ≤ 1
        ∧ fieldAt image 56 4 = 0x1C400000 ∧ f.usable idle.planBase = true ∧ darkTest .light f idle.dark = false
        ∧ darkTest .light f ⟨[(0, some validSlot)], 0, 0, false⟩ = true) := by decide +kernel

theorem witness_RecordReadEnds :
    ∀ (ended : Nat) (failed : Bool), ended = 0 ∨ ended = 95 →
      let s := moving (.recordRead 0) (.recordRead ⟨0, 0, 4000⟩ 96 ended failed []) endedDark
      s.flying 0 (.recordRead 0) ∧ s.bulk = some (.recordRead ⟨0, 0, 4000⟩ 96 ended failed []) ∧ s.waiting = [] :=
  fun _ _ _ => ⟨⟨_, rfl⟩, rfl, rfl⟩

/-- COMMIT_DARK at its first and at its last tile, 63 of 64, with tile 1 touched. -/
theorem witness_PlaneWriteEnds :
    ∀ (tile ended : Nat), tile = 0 ∨ tile = 63 → ended = 0 ∨ ended = 15 →
      let op : BulkOp := .planeWrite ⟨0, tile, 4000⟩ [] (ended + 1) ended false
      let s := moving (.planeWrite 0) op { endedDark with
        dark := ⟨[(0, some { validSlot with building := true })], 0, 0, false⟩
        cache := { TileCache.reset with touched := [(1, true)] } }
      s.flying 0 (.planeWrite 0) ∧ s.bulk = some op ∧ s.waiting = [] ∧ s.cmd.aborting = false
        ∧ s.dark.slot 0 = some { validSlot with building := true } ∧ s.cmd.snap.tiles = 64
        ∧ s.cache.isTouched (0 + 1) = true ∧ s.cache.isTouched (1 + 1) = false ∧ s.hdr.folded ≠ 0 :=
  fun _ _ _ _ => ⟨⟨_, rfl⟩, rfl, rfl, rfl, rfl, (by decide : smallPlan.tiles = 64), rfl, rfl, (by decide : (1 : BitVec 16) ≠ 0)⟩

/-- The mean of the sum -7 over one subframe lies in s16, and an ABORT may be pending. -/
theorem witness_PlaneWriteEnds_last :
    let s := moving (.planeWrite 0) (.planeWrite ⟨0, 63, 4000⟩ [] 16 15 false) { endedDark with
      dark := ⟨[(0, some { validSlot with building := true })], -7, 0, false⟩
      cmd := { endedDark.cmd with aborting := true } }
    2 * (s.dark.tempSum.toInt - (-7) * s.hdr.folded.toNat).natAbs ≤ s.hdr.folded.toNat ∧ s.waiting = [] ∧ s.cmd.aborting = true := by
  decide

/-- An ERROR, or any answer after one: the last write placed or others still in flight, an ABORT pending or not. -/
theorem witness_PlaneWriteEnds_errors :
    ∀ (failed aborting : Bool) (placed : Nat), placed = 3 ∨ placed = 5 →
      let op : BulkOp := .planeWrite ⟨0, 0, 4000⟩ [] placed 2 failed
      let slot := if failed then none else some { validSlot with building := true }
      let s := moving (.planeWrite 2) op { busy .commitDark endedDark with
        dark := ⟨[(0, slot)], 0, 0, false⟩, cmd := { (busy .commitDark endedDark).cmd with aborting := aborting } }
      s.flying 0 (.planeWrite 2) ∧ s.bulk = some op ∧ s.waiting = [] ∧ s.cmd.aborting = aborting ∧ s.dark.slot 0 = slot :=
  fun _ _ _ _ => ⟨⟨_, rfl⟩, rfl, rfl, rfl, rfl⟩

/-- The library write of COMMIT_DARK and the read of ADOPT_LIBRARY, each with and without an ABORT pending. -/
theorem witness_LibraryAccessEnds :
    ∀ aborting : Bool,
      (let s := moving .libraryWrite (.libraryWrite 0x1C400000 0 true)
        { endedDark with cmd := { endedDark.cmd with aborting := aborting } }
       s.waiting = [] ∧ s.cmd.aborting = aborting ∧ s.flying 0 .libraryWrite ∧ s.bulk = some (.libraryWrite 0x1C400000 0 true))
      ∧ (let s := moving .libraryRead (.libraryRead 0x1C400000 true) { idle with cmd := { idle.cmd with aborting := aborting } }
         s.waiting = [] ∧ s.cmd.aborting = aborting ∧ s.flying 0 .libraryRead ∧ s.bulk = some (.libraryRead 0x1C400000 true)) :=
  fun _ => ⟨⟨rfl, rfl, ⟨_, rfl⟩, rfl⟩, ⟨rfl, rfl, ⟨_, rfl⟩, rfl⟩⟩

/-- A carried request in hand at the end of each kind of Bulk Mover transaction: it stands. -/
theorem witness_BulkMoverEnds_carried :
    let hand := some (InHand.through (.read 0x20000000 1) true)
    ([(Purpose.contextWrite, BulkOp.contextWrite 0x1C400000 [] false 3 true, Instr.contextWriteEnd 0 .ok),
      (.contextRead 0, .contextRead 0x1C400000 4 2 false [], .contextReadEnd 0 .error 0),
      (.recordRead 0, .recordRead ⟨0, 0, 4000⟩ 96 95 true [], .commitRecordReadEnd 0 .ok 0),
      (.planeWrite 0, .planeWrite ⟨0, 0, 4000⟩ [] 4 2 false, .planeWriteEnd 0 .ok),
      (.libraryWrite, .libraryWrite 0x1C400000 0 true, .libraryWriteEnd 0 .ok),
      (.libraryRead, .libraryRead 0x1C400000 true, .libraryReadEnd 0 .ok 0)].all fun (p, op, row) =>
      let t := after row { moving p op endedDark with
        inHand := hand, dark := ⟨[(0, some { validSlot with building := true })], 0, 0, false⟩ }
      decide (t.inHand = hand) && decide (t.arb.inFlight = [])) = true := by decide +kernel

/-- A result read that waits for the fill of tile 0 stands through a record read of COMMIT_DARK; where a pending ABORT stops
the command it goes on, tile 0 untouched now, and shows 0 (log 33). -/
theorem witness_BulkMoverEnds_read :
    ∀ stops : Bool,
      let op : BulkOp := if stops then .libraryWrite 0x1C400000 0 true else .recordRead ⟨0, 0, 4000⟩ 96 2 false []
      let p : Purpose := if stops then .libraryWrite else .recordRead 2
      let c := caching (sectorOf .filling 0) (some ⟨0, 0, 96, 3, false, []⟩) none none endedDark
      let s := moving p op { c with inHand := some (waitsForTile0 true), cmd := { c.cmd with aborting := stops } }
      let t := after (if stops then .libraryWriteEnd 0 .ok else .commitRecordReadEnd 0 .ok 0) s
      if stops = true then t.inHand = none ∧ t.answers = [⟨.ok, [0]⟩]
      else t.inHand = some (waitsForTile0 true) ∧ t.answers = [] := by decide +kernel

theorem witness_RunContextReadsBack :
    running.cmd.snap.usable running.planBase = true ∧ idle.planBase = running.planBase
      ∧ Table.wf false running.cache.touched = true := by decide

/-- A state with a subframe open, a transaction in flight and tables in use meets the three invariants, and a step of it
answers a next state. -/
def inUse : State :=
  { flyingOne .libraryWrite darkRun with
    pending := [.classWrite 0 [⟨0, 0xFF⟩]]
    cache := { TileCache.reset with touched := [(1, true)] } }

theorem witness_EveryStepKeepsTheInvariants :
    inUse.linkInv ∧ inUse.lockInv ∧ inUse.tablesInv ∧ ∃ t, step inUse = .next t :=
  ⟨⟨by decide, fun r => by cases r <;> decide, fun _ h => nomatch h⟩, by decide +kernel, by decide +kernel, ⟨_, rfl⟩⟩

/-- With a request in hand and another waiting: it is blocked, and a step of its end answers a next state. -/
theorem witness_EveryStepKeepsTheInvariants_waiting :
    let s := flyingOne .passThrough { idle with
      inHand := some (.through (.read 0x20000000 1) true), waiting := [.read 0x20000008 1], pending := [.passThroughEnd 0 .ok 0] }
    s.linkInv ∧ ∃ t, step s = .next t :=
  ⟨⟨by decide, fun r => by cases r <;> decide, fun _ _ => .inl (nomatch ·)⟩, _, rfl⟩

end Sys2Proof.Tests
end

section
/-! PROOFS. Commands and flushes: the effect of a command word that is taken, the flush a save begins (R123, R156, R158),
ABORT's effects (R163), and the invariants after the RESET line. -/

-- The proofs of this file are gone through one after another: while the tests of the frozen text are checked, the memory
-- limit of the check leaves no room for more threads.
set_option deprecated.oldSectionVars true

namespace Sys2Proof.Machine

variable {s : State}

/-! ## The RESET line -/

/-- Settles O60: nothing waits or is in flight at reset, no subframe is open, and every table is empty. -/
theorem resetMeetsTheInvariants : Obligations.ResetMeetsTheInvariants := by
  have hlink : State.reset.linkInv :=
    ⟨Nat.zero_le 8, fun r => by cases r <;> exact Nat.zero_le 16, fun _ h => nomatch h⟩
  have hlock : State.reset.lockInv :=
    ⟨nofun, fun _ => rfl, Nat.zero_le 2, nofun, fun h => (h.elim (fun h => h rfl) fun h => h rfl).elim,
      fun _ h => (List.not_mem_nil h).elim⟩
  exact ⟨hlink, hlock, rfl, rfl, rfl, rfl, rfl, rfl, rfl, rfl, rfl, rfl, rfl⟩

/-! ## A command word taken in READY -/

/-- What a command-word burst comes to when it is taken in READY: the judgement of its command, and the write carried. -/
theorem arrive_takesCommand {code : BitVec 16} {b : CommandBurst} (h : s.takesCommand code b)
    (hw : (judge code b.arg (s.atCommand code b)).waiting = s.waiting) :
    arrive (commandRequest code b s) s
      = (judge code b.arg (s.atCommand code b)).carrying (commandRequest code b s) := by
  have hn : s.waiting = [] := h.1.1.1.2.1
  rw [arrive_command h.1, takeCommand_ready h.2]
  exact setWaiting_nil_of (hw.trans hn)

theorem exec_endRun (b : CommandBurst) : exec (.endRun b) s = .next (arrive (commandRequest endCode b s) s) := rfl
theorem exec_checkpoint (b : CommandBurst) :
    exec (.checkpoint b) s = .next (arrive (commandRequest checkpointCode b s) s) := rfl
theorem exec_abort (b : CommandBurst) : exec (.abort b) s = .next (arrive (commandRequest abortCode b s) s) := rfl

/-! ## The flush a save begins (R123, R124) -/

theorem TileCache.stateIs_iff {c : TileCache} {i : Nat} {st : SectorState} :
    c.stateIs i st = true ↔ ∃ x, c.sector i = some x ∧ x.state = st := by
  unfold TileCache.stateIs
  cases c.sector i <;> simp

theorem TileCache.nextDirty_zero {c : TileCache} {j : Nat} (hj : j < 32) (hd : c.stateIs j .dirty = true)
    (hb : ∀ k, k < j → c.stateIs k .dirty = false) : c.nextDirty 0 = some j :=
  find_range hj (by simpa using hd) fun k hk => by simpa using hb k hk

theorem TileCache.nextDirty_none {c : TileCache} {i : Nat} (h : ∀ k, k < 32 → c.stateIs k .dirty = false) :
    c.nextDirty i = none :=
  List.find?_eq_none.mpr fun k hk => by simp [h k (List.mem_range.mp hk)]

/-- A flush from sector 0 that has lost no tile is the flush the statements ask for. -/
theorem flushFrom_beginsFlush (q : State) : q.beginsFlush (flushFrom 0 false q) := by
  refine ⟨fun j x hj hx hd hb => ?_, fun hc => ?_⟩
  · have hn := TileCache.nextDirty_zero hj (TileCache.stateIs_iff.mpr ⟨x, hx, hd⟩) hb
    have hs : ({ q.cache with flush := some ⟨j, false⟩ } : TileCache).sector j = some x := hx
    simp only [flushFrom, hn, TileCache.beginWriteback, hs]
    rfl
  · simp only [flushFrom, TileCache.nextDirty_none hc]
    rfl

theorem beginSave_beginsFlush (who : Saver) (q : State) :
    { q with cmd := { q.cmd with saving := some who } }.beginsFlush (beginSave who q) := flushFrom_beginsFlush _

/-- A save changes the cache, the Bulk Mover's operation and the Command Unit; the requests that wait stand. -/
theorem beginSave_waiting (who : Saver) (q : State) : (beginSave who q).waiting = q.waiting := by
  unfold beginSave flushFrom
  split <;> rfl

/-! ## The close of a subframe (R33, R34, R41) -/

/-- A counted close in the words of the statements. -/
theorem closeCounted_some {sub : Subframe} (h : s.hdr.opened = some sub) :
    closeCounted s = if sub.landed < s.cmd.snap.width.toNat / 32 * s.cmd.snap.height.toNat then
        raise .shortSubframe (count .shortSubframes 1 (s.setHdr s.hdr.closeSubframe))
      else s.setHdr s.hdr.closeSubframe := by
  simp only [closeCounted, h, Frozen.blocks, Frozen.tw]
  rfl

theorem closeCounted_none (h : s.hdr.opened = none) : closeCounted s = s := by
  simp only [closeCounted, h]

theorem closeCounted_waiting : (closeCounted s).waiting = s.waiting := by
  unfold closeCounted
  split
  · rfl
  · dsimp only; split <;> rfl

/-- A close removes the context and changes the history alone. -/
theorem HeaderUnit.closeSubframe_eq (h : HeaderUnit) :
    h.closeSubframe = { h with opened := none, history := h.closeSubframe.history } := by
  unfold HeaderUnit.closeSubframe
  split
  next ho => rw [← ho]
  next => rfl

/-- The history after a close: the entry of the subframe that was open has its landed blocks and is open no more. -/
theorem HeaderUnit.closeSubframe_history {h : HeaderUnit} {sub : Subframe} (ho : h.opened = some sub) (i : Nat) :
    Table.get none h.closeSubframe.history i =
      if i = sub.position.toNat then
        (Table.get none h.history i).map fun e => { e with isOpen := false, landed := sub.landed }
      else Table.get none h.history i := by
  simp only [HeaderUnit.closeSubframe, ho]
  cases he : Table.get none h.history sub.position.toNat with
  | none => by_cases hi : i = sub.position.toNat <;> simp [hi, he]
  | some e => by_cases hi : i = sub.position.toNat <;> simp [hi, he, Table.get_set]

/-! ## END and CHECKPOINT (R156, R158) -/

theorem judgeEnd_running {p : State} (h : p.cmd.run = .running) (arg : BitVec 16) :
    judgeEnd arg p = beginSave .endRun ((closeCounted (p.accepted .endRun arg)).setCmd
      { (closeCounted (p.accepted .endRun arg)).cmd with run := .ending }) :=
  if_neg (not_not.mpr h)

theorem judgeCheckpoint_running {p : State} (h : p.cmd.run = .running) (arg : BitVec 16) :
    judgeCheckpoint arg p = beginSave .checkpoint (p.accepted .checkpoint arg) :=
  if_neg (not_not.mpr h)

/-- Settles O22: the close of END with its test, and for both commands the flush that `beginSave` begins. -/
theorem endAndCheckpointBeginTheirFlush : Obligations.EndAndCheckpointBeginTheirFlush := by
  intro s b hrun
  refine ⟨fun h => ?_, fun h => ?_⟩
  · intro p q
    have hq : closeCounted p = q := by
      cases ho : s.hdr.opened with
      | none => simp only [q, ho]; exact closeCounted_none ho
      | some sub => simp only [q, ho]; exact closeCounted_some ho
    have hj : judge endCode b.arg (s.atCommand endCode b) = beginSave .endRun (q.setCmd { q.cmd with run := .ending }) := by
      rw [judge_end, judgeEnd_running (p := s.atCommand endCode b) hrun, ← hq]
    refine ⟨_, ?_, beginSave_beginsFlush .endRun (q.setCmd { q.cmd with run := .ending })⟩
    rw [exec_endRun, arrive_takesCommand h, hj]
    rw [hj, beginSave_waiting, State.setCmd_waiting, ← hq, closeCounted_waiting]
    rfl
  · intro p
    have hj : judge checkpointCode b.arg (s.atCommand checkpointCode b) = beginSave .checkpoint p := by
      rw [judge_checkpoint, judgeCheckpoint_running (p := s.atCommand checkpointCode b) hrun]
    refine ⟨_, ?_, beginSave_beginsFlush .checkpoint p⟩
    rw [exec_checkpoint, arrive_takesCommand h, hj]
    rw [hj, beginSave_waiting]
    rfl

/-! ## ABORT (R163) -/

/-- A canonical table without the entries whose value fails a test. -/
theorem Table.get_filter {α : Type} [DecidableEq α] {d : α} (q : α → Bool) {lo : Nat} {t : List (Nat × α)}
    (ht : Table.above d lo t = true) (i : Nat) :
    Table.get d (t.filter fun p => q p.2) i = if q (Table.get d t i) = true then Table.get d t i else d := by
  induction t generalizing lo with
  | nil => exact (ite_self d).symm
  | cons p rest ih =>
    obtain ⟨k, v⟩ := p
    obtain ⟨-, -, hr⟩ := (Table.above_cons d lo k v rest).mp ht
    have hk : Table.get d (rest.filter fun p => q p.2) k = d := Table.get_of_above (Table.above_filter _ hr) (by omega)
    have ih := ih hr
    by_cases hq : q v = true <;> by_cases hi : k = i
    · simp [Table.get_cons, hq, hi]
    · simp [Table.get_cons, hq, hi, ih]
    · subst hi; simp [Table.get_cons, hq, hk]
    · simp [Table.get_cons, hq, hi, ih]

/-- The slots after ABORT: those that were BUILDING are EMPTY (R63). -/
theorem DarkUnit.get_dropBuilding (d : DarkUnit) (h : Table.wf none d.slots = true) (k : Nat) :
    Table.get none d.dropBuilding.slots k =
      match d.slot k with
      | some x => if x.building = true then none else some x
      | none => none := by
  have hg := Table.get_filter (fun v : Option Slot => v.all fun x => !x.building) h k
  rw [DarkUnit.dropBuilding, DarkUnit.slot]
  refine hg.trans ?_
  cases Table.get none d.slots k with
  | none => simp
  | some x => cases hb : x.building <;> simp [hb]

/-- With no fill read in flight, none is dropped. -/
theorem dropFill_of_no_fill {l : List Flight} (h : ∀ f, f ∈ l → f.purpose.isFill = false) : l.map Flight.dropFill = l := by
  refine (List.map_congr_left fun f hf => ?_).trans l.map_id
  have := h f hf
  unfold Flight.dropFill
  split
  next hp => simp [Purpose.isFill, hp] at this
  next => rfl

/-- ABORT's effects with no fill read in flight, in the words of the statements (R163). -/
theorem abortEffects_eq (h : ∀ f, f ∈ s.arb.inFlight → f.purpose.isFill = false) :
    abortEffects s = { s with
      cmd := { s.cmd with run := .idle }
      hdr := { s.hdr.closeSubframe with lock := .hunt, badRun := 0, received := 0 }
      dark := { s.dark with slots := s.dark.dropBuilding.slots }
      cache := { TileCache.reset with firstFillError := s.cache.firstFillError } } := by
  have harb : ({ s.arb with inFlight := s.arb.inFlight.map Flight.dropFill } : Arbiter) = s.arb := by
    rw [dropFill_of_no_fill h]
  unfold abortEffects
  exact congrArg (State.setArb _) harb

/-- Settles O26: ABORT's effects block by block; the slot table is the one without its BUILDING slots. -/
theorem abortInReady : Obligations.AbortInReady := by
  intro s b h hf
  have hj : judge abortCode b.arg (s.atCommand abortCode b)
      = (abortEffects (s.atCommand abortCode b)).withOutcome .done := rfl
  refine ⟨s.dark.dropBuilding.slots, ?_, s.dark.get_dropBuilding⟩
  rw [exec_abort, arrive_takesCommand h (by rw [hj, State.withOutcome_waiting, abortEffects_waiting]; rfl), hj,
    abortEffects_eq (s := s.atCommand abortCode b) hf]
  rfl

end Sys2Proof.Machine
end

section
/-! PROOFS. A header burst that completes, the close of the open subframe with its short-subframe test, and the automatic
checkpoint (R8, R20, R22, R33 to R35, R159; O31). -/

-- The proofs of this file are gone through one after another: while the tests of the frozen text are checked, the memory
-- limit of the check leaves no room for more threads.
set_option deprecated.oldSectionVars true

namespace Sys2Proof.Machine

variable {s : State}

/-! ## A header burst (R8, R20, R22) -/

/-- The header line's bytes and marks are all that a burst changes in the Header Unit. -/
theorem HeaderUnit.placeBytes_eq (h : HeaderUnit) (bytes : List (Nat × Byte)) :
    h.placeBytes bytes = { h with line := (h.placeBytes bytes).line, received := (h.placeBytes bytes).received } := by
  unfold HeaderUnit.placeBytes
  generalize (bytes.filter fun p => decide (p.1 < 64)) = l
  induction l generalizing h with
  | nil => rfl
  | cons p rest ih => exact ih (h.placeByte p)

theorem HeaderUnit.closeSubframe_placeByte (h : HeaderUnit) (p : Nat × Byte) :
    (h.placeByte p).closeSubframe = h.closeSubframe.placeByte p := by
  have ho : (h.placeByte p).opened = h.opened := rfl
  cases hs : h.opened with
  | none => simp only [HeaderUnit.closeSubframe, ho, hs]
  | some sub => simp only [HeaderUnit.closeSubframe, ho, hs]; rfl

/-- Placing bytes and closing the subframe do not meet: either may come first. -/
theorem HeaderUnit.closeSubframe_placeBytes (h : HeaderUnit) (bytes : List (Nat × Byte)) :
    (h.placeBytes bytes).closeSubframe = h.closeSubframe.placeBytes bytes := by
  unfold HeaderUnit.placeBytes
  exact (List.foldl_hom HeaderUnit.closeSubframe fun h p => (h.closeSubframe_placeByte p).symm).symm

/-- The Header Unit with the bytes of a completed header placed and its marks cleared (R20). -/
def HeaderUnit.completed (h : HeaderUnit) (bytes : List (Nat × Byte)) : HeaderUnit := { h.placeBytes bytes with received := 0 }

theorem HeaderUnit.completed_eq (h : HeaderUnit) (bytes : List (Nat × Byte)) :
    h.completed bytes = { h with line := (h.placeBytes bytes).line, received := 0 } := by
  rw [HeaderUnit.completed, h.placeBytes_eq bytes]

theorem HeaderUnit.closeSubframe_completed (h : HeaderUnit) (bytes : List (Nat × Byte)) :
    (h.completed bytes).closeSubframe = h.closeSubframe.completed bytes := by
  have hr (g : HeaderUnit) :
      ({ g with received := 0 } : HeaderUnit).closeSubframe = { g.closeSubframe with received := 0 } := by
    cases hs : g.opened with
    | none => simp only [HeaderUnit.closeSubframe, hs]
    | some sub => simp only [HeaderUnit.closeSubframe, hs]
  rw [HeaderUnit.completed, hr, h.closeSubframe_placeBytes]
  rfl

theorem exec_headerWrite (addr : BitVec 32) (beats : List Beat) :
    exec (.headerWrite addr beats) s = .next (arrive (.write addr beats) s) := rfl

/-- A burst to the header page that is taken and completes the header. -/
theorem exec_header_complete {addr : BitVec 32} {beats : List Beat} (h : s.takesIn (.write addr beats) .capture)
    (ho : addr.toNat - s.active.captureBase.toNat < 4096)
    (hc : (s.hdr.placeBytes (strobedBytes (addr.toNat - s.active.captureBase.toNat) beats)).received = BitVec.allOnes 64) :
    exec (.headerWrite addr beats) s = .next ((completeHeader
      (s.setHdr (s.hdr.completed (strobedBytes (addr.toNat - s.active.captureBase.toNat) beats)))).setWaiting []) := by
  have hcc : (s.hdr.placeBytes (strobedBytes (addr.toNat - s.active.captureBase.toNat) beats)).complete = true :=
    decide_eq_true hc
  rw [exec_headerWrite, arrive_takesIn h]
  simp only [takeInWindow, takeCapture, takeCaptureWrite, if_pos ho, takeHeaderBytes, hcc, if_true]
  rfl

/-- When a request is taken, and in which window, depends on the Command Unit and the P-link alone. -/
theorem State.takesIn_congr {u : State} {r : Request} {w : Window} (hcmd : u.cmd = s.cmd) (hbase : u.planBase = s.planBase)
    (hhand : u.inHand = s.inHand) (hwait : u.waiting = s.waiting) (hlow : u.resetLow = s.resetLow)
    (h : s.takesIn r w) : u.takesIn r w := by
  cases s; cases u
  subst hcmd hbase hhand hwait hlow
  exact h

/-! ## The automatic checkpoint (R33 to R35, R159) -/

theorem completeHeader_closed (hr : s.cmd.run = .running) (ho : s.hdr.opened = none) :
    completeHeader s = answer .ok [] (evaluateHeader s) := by
  simp only [completeHeader, hr, ho, ne_eq, not_true_eq_false, if_false]

theorem completeHeader_open {sub : Subframe} (hr : s.cmd.run = .running) (ho : s.hdr.opened = some sub) :
    completeHeader s = if s.checkpointDue sub then beginSave .automatic ((closeCounted s).setInHand (some .header))
      else answer .ok [] (evaluateHeader (closeCounted s)) := by
  simp only [completeHeader, hr, ho, ne_eq, not_true_eq_false, if_false]

/-- A short subframe is counted and raises its event (R34). -/
def State.shortCounted (s : State) (sub : Subframe) : State :=
  if sub.landed < s.cmd.snap.width.toNat / 32 * s.cmd.snap.height.toNat then
    raise .shortSubframe (count .shortSubframes 1 s)
  else s

/-- The counted close with the test before the close. -/
theorem closeCounted_setHdr {sub : Subframe} {h : HeaderUnit} (ho : h.opened = some sub) :
    closeCounted (s.setHdr h) = (s.shortCounted sub).setHdr h.closeSubframe := by
  rw [closeCounted_some (s := s.setHdr h) ho]
  unfold State.shortCounted
  by_cases hl : sub.landed < s.cmd.snap.width.toNat / 32 * s.cmd.snap.height.toNat
  · rw [if_pos hl, State.setHdr_cmd, if_pos hl]; rfl
  · rw [if_neg hl, State.setHdr_cmd, if_neg hl]; rfl

theorem State.shortCounted_frame (s : State) (sub : Subframe) :
    (s.shortCounted sub).cmd = s.cmd ∧ (s.shortCounted sub).planBase = s.planBase ∧ (s.shortCounted sub).inHand = s.inHand
      ∧ (s.shortCounted sub).waiting = s.waiting ∧ (s.shortCounted sub).resetLow = s.resetLow := by
  unfold State.shortCounted
  split <;> exact ⟨rfl, rfl, rfl, rfl, rfl⟩

/-- Settles O31: both ways a header goes on after the close, and what the close leaves in the history. -/
theorem headerStartsAutomaticCheckpoint : Obligations.HeaderStartsAutomaticCheckpoint := by
  intro s addr beats sub htake off h due q hoff hrec hrun hopen
  have hq : q = s.shortCounted sub := rfl
  obtain ⟨hcmd, hbase, hhand, hwait, hlow⟩ := s.shortCounted_frame sub
  have hex := exec_header_complete htake hoff hrec
  have hopened : (s.hdr.completed (strobedBytes off beats)).opened = some sub := by
    rw [HeaderUnit.completed_eq]; exact hopen
  have hdue : (s.setHdr (s.hdr.completed (strobedBytes off beats))).checkpointDue sub = true ↔ due := decide_eq_true_iff
  have hco := completeHeader_open (s := s.setHdr (s.hdr.completed (strobedBytes off beats))) hrun hopened
  rw [closeCounted_setHdr hopened] at hco
  refine ⟨fun hd => ?_, fun hd => ?_, s.hdr.closeSubframe_eq, fun i => HeaderUnit.closeSubframe_history hopen i⟩
  · rw [if_pos (hdue.mpr hd)] at hco
    refine ⟨_, hex, ?_⟩
    rw [hco, setWaiting_nil_of (by rw [beginSave_waiting]; exact hwait.trans htake.1.2.1)]
    have hb := beginSave_beginsFlush .automatic
      (((s.shortCounted sub).setHdr (s.hdr.completed (strobedBytes off beats)).closeSubframe).setInHand (some .header))
    simp only [State.setInHand_cmd, State.setHdr_cmd, hcmd] at hb
    exact hb
  · rw [if_neg fun hb => hd (hdue.mp hb), HeaderUnit.closeSubframe_completed] at hco
    have htake' : ({ q with hdr := s.hdr.closeSubframe } : State).takesIn (.write addr beats) .capture :=
      State.takesIn_congr hcmd hbase hhand hwait hlow htake
    have hact : ({ q with hdr := s.hdr.closeSubframe } : State).active = s.active := by
      unfold State.active
      exact hcmd ▸ rfl
    have hrec' : (s.hdr.closeSubframe.placeBytes (strobedBytes off beats)).received = BitVec.allOnes 64 := by
      rw [← HeaderUnit.closeSubframe_placeBytes, HeaderUnit.closeSubframe_eq]; exact hrec
    have hnone : (s.hdr.closeSubframe.completed (strobedBytes off beats)).opened = none := by
      rw [HeaderUnit.completed_eq, HeaderUnit.closeSubframe_eq]
    have hex' := exec_header_complete htake' (by rw [hact]; exact hoff) (by rw [hact]; exact hrec')
    rw [hact] at hex'
    rw [hex, hex', hco]
    have hcc := completeHeader_closed
      (s := ({ q with hdr := s.hdr.closeSubframe } : State).setHdr (s.hdr.closeSubframe.completed (strobedBytes off beats)))
      ((congrArg CommandUnit.run hcmd).trans hrun) hnone
    rw [hcc]
    rfl

end Sys2Proof.Machine
end

section
/-! PROOFS. The parts of a header's evaluation: the lock machine case by case (R23 to R29), the counters and events of a
disposition (R28 to R31), and the opening of a subframe (R32, R40). -/

-- The proofs of this file are gone through one after another: while the tests of the frozen text are checked, the memory
-- limit of the check leaves no room for more threads.
set_option deprecated.oldSectionVars true

namespace Sys2Proof.Machine

variable {s : State}

/-! ## Counters and events -/

/-- A counter rises and holds, in numbers (R186). -/
theorem counter_count_toNat (c : Counter) (k : Nat) (s : State) (x : Counter) :
    ((count c k s).counter x).toNat = min 4294967295 ((s.counter x).toNat + if x = c then k else 0) := by
  have hlt := (s.counter x).isLt
  rw [counter_count]
  by_cases hx : x = c
  · subst hx; simp
  · rw [if_neg hx, if_neg hx]; omega

/-- An event raised is pending, the others stand (R188). -/
theorem isRaised_raise (e f : Event) (s : State) : (raise e s).isRaised f = (s.isRaised f || decide (f = e)) := by
  have hb : e.bit < 9 := by cases e <;> decide
  have hinj : f.bit = e.bit ↔ f = e := by cases e <;> cases f <;> simp [Event.bit]
  simp only [State.isRaised, raise_rep, BitVec.getLsbD_or, BitVec.getLsbD_twoPow]
  simp only [hb, decide_true, Bool.true_and, eq_comm (a := e.bit), hinj]

theorem isRaised_count (c : Counter) (k : Nat) (s : State) (f : Event) : (count c k s).isRaised f = s.isRaised f := rfl

/-! ## The verdict and the lock machine (R23 to R29) -/

theorem HeaderUnit.verdict_bad {h : HeaderUnit} {tag : BitVec 32}
    (hb : h.marker ≠ 0x7E51A3D2 ∨ h.lineSum % 65536 ≠ 0 ∨ h.exposure = 0) : h.verdict tag = .bad := if_pos hb

theorem HeaderUnit.verdict_foreign {h : HeaderUnit} {tag : BitVec 32}
    (hb : ¬(h.marker ≠ 0x7E51A3D2 ∨ h.lineSum % 65536 ≠ 0 ∨ h.exposure = 0)) (hf : h.runTag ≠ tag) :
    h.verdict tag = .foreign := (if_neg hb).trans (if_pos hf)

theorem HeaderUnit.verdict_valid {h : HeaderUnit} {tag : BitVec 32}
    (hb : ¬(h.marker ≠ 0x7E51A3D2 ∨ h.lineSum % 65536 ≠ 0 ∨ h.exposure = 0)) (hf : ¬h.runTag ≠ tag) :
    h.verdict tag = .valid := (if_neg hb).trans (if_neg hf)

theorem HeaderUnit.verdict_bad_iff {h : HeaderUnit} {tag : BitVec 32} : h.verdict tag = .bad
    ↔ (h.marker ≠ 0x7E51A3D2 ∨ h.lineSum % 65536 ≠ 0 ∨ h.exposure = 0) := by
  refine ⟨fun hv => by_contra fun hb => ?_, HeaderUnit.verdict_bad⟩
  by_cases hf : h.runTag ≠ tag
  · rw [HeaderUnit.verdict_foreign hb hf] at hv; cases hv
  · rw [HeaderUnit.verdict_valid hb hf] at hv; cases hv

theorem HeaderUnit.verdict_valid_iff {h : HeaderUnit} {tag : BitVec 32} : h.verdict tag = .valid
    ↔ ¬(h.marker ≠ 0x7E51A3D2 ∨ h.lineSum % 65536 ≠ 0 ∨ h.exposure = 0) ∧ ¬h.runTag ≠ tag := by
  refine ⟨fun hv => ?_, fun ⟨hb, hf⟩ => HeaderUnit.verdict_valid hb hf⟩
  have hb : ¬(h.marker ≠ 0x7E51A3D2 ∨ h.lineSum % 65536 ≠ 0 ∨ h.exposure = 0) := fun hb => by
    rw [HeaderUnit.verdict_bad hb] at hv; cases hv
  refine ⟨hb, fun hf => ?_⟩
  rw [HeaderUnit.verdict_foreign hb hf] at hv; cases hv

section LockMachine

variable {last seq : BitVec 16} {n : Nat}

theorem lockMove_hunt_bad : lockMove .hunt last n .bad seq = ⟨.hunt, last, n, .bad, 0, false, false⟩ := rfl
theorem lockMove_probe_bad : lockMove .probe last n .bad seq = ⟨.hunt, last, n, .bad, 0, false, false⟩ := rfl
theorem lockMove_locked_bad : lockMove .locked last n .bad seq =
    if n = 2 then ⟨.hunt, last, 0, .bad, 0, false, true⟩ else ⟨.locked, last, n + 1, .bad, 0, false, false⟩ := by
  by_cases hn : n = 2
  · rw [if_pos hn]; exact if_pos (by omega)
  · rw [if_neg hn]; exact if_neg (by omega)
theorem lockMove_bad_disposition (l : Lock) : (lockMove l last n .bad seq).disposition = .bad := by
  cases l with
  | hunt => rfl
  | probe => rfl
  | locked => rw [lockMove_locked_bad]; split <;> rfl
theorem lockMove_foreign (l : Lock) : lockMove l last n .foreign seq = ⟨l, last, n, .foreign, 0, false, false⟩ := by
  cases l <;> rfl
theorem lockMove_hunt_valid : lockMove .hunt last n .valid seq = ⟨.probe, seq, n, .skipped, 0, false, false⟩ := rfl
theorem lockMove_probe_next (h : (seq - last).toNat = 1) :
    lockMove .probe last n .valid seq = ⟨.locked, seq, 0, .folded, 0, true, false⟩ := if_pos h
theorem lockMove_probe_skip (h : (seq - last).toNat ≠ 1) :
    lockMove .probe last n .valid seq = ⟨.probe, seq, n, .skipped, 0, false, false⟩ := if_neg h
theorem lockMove_locked_duplicate (h : (seq - last).toNat = 0) :
    lockMove .locked last n .valid seq = ⟨.locked, last, 0, .duplicate, 0, false, false⟩ := if_pos h
theorem lockMove_locked_next (h : 1 ≤ (seq - last).toNat) (h' : (seq - last).toNat ≤ 32768) :
    lockMove .locked last n .valid seq = ⟨.locked, seq, 0, .folded, (seq - last).toNat - 1, false, false⟩ :=
  (if_neg (by omega)).trans (if_pos h')
theorem lockMove_locked_stale (h : 32769 ≤ (seq - last).toNat) :
    lockMove .locked last n .valid seq = ⟨.locked, last, n, .stale, 0, false, false⟩ :=
  (if_neg (by omega)).trans (if_neg (by omega))

end LockMachine

/-! ## The parts of an evaluation -/

/-- The move the lock machine makes of the header in the buffer (R24, R26 to R29). -/
def State.headerMove (s : State) : LockMove :=
  lockMove s.hdr.lock s.hdr.last s.hdr.badRun (s.hdr.verdict s.cmd.snap.runTag) s.hdr.seq

/-- The disposition of the header in the buffer, the cases of R30 included. -/
def State.headerDisposition (s : State) : Disposition := finalDisposition s s.headerMove.disposition

/-- The Header Unit with the lock, the last sequence and the bad-run count moved. -/
def State.movedHdr (s : State) : HeaderUnit :=
  { s.hdr with lock := s.headerMove.lock, last := s.headerMove.last, badRun := s.headerMove.badRun }

/-- The state with the header's move made, counted and its events raised. -/
def State.headerCounted (s : State) : State := countHeader s.headerMove s.headerDisposition (s.setHdr s.movedHdr)

theorem evaluateHeader_folded (h : s.headerDisposition = .folded) : evaluateHeader s = openSubframe s.headerCounted :=
  if_pos h

theorem evaluateHeader_plain (h : s.headerDisposition ≠ .folded) : evaluateHeader s =
    s.headerCounted.setHdr (s.headerCounted.hdr.addEntry (plainEntry s.hdr s.headerDisposition)) := if_neg h

/-- The disposition before R30 stands unless it is FOLDED. -/
theorem finalDisposition_of_ne {d : Disposition} (h : d ≠ .folded) : finalDisposition s d = d := if_pos h

theorem finalDisposition_full (h : s.hdr.folded = 65535) : finalDisposition s .folded = .runFull :=
  (if_neg (not_not.mpr rfl)).trans (if_pos h)

theorem finalDisposition_mismatch (h : s.hdr.folded ≠ 65535)
    (ho : s.cmd.mode = .dark ∧ s.dark.erefSet = true ∧ s.hdr.exposure ≠ s.dark.eref) :
    finalDisposition s .folded = .mismatch :=
  (if_neg (not_not.mpr rfl)).trans ((if_neg h).trans (if_pos ho))

theorem finalDisposition_folded (h : s.hdr.folded ≠ 65535)
    (ho : ¬(s.cmd.mode = .dark ∧ s.dark.erefSet = true ∧ s.hdr.exposure ≠ s.dark.eref)) :
    finalDisposition s .folded = .folded :=
  (if_neg (not_not.mpr rfl)).trans ((if_neg h).trans (if_neg ho))

/-! ## What a disposition counts and raises (R28 to R31) -/

/-- From `s` to `t` nothing but the Report Unit has changed. -/
def State.reportOnly (s t : State) : Prop := t = s.setRep t.rep

theorem reportOnly_refl (s : State) : s.reportOnly s := rfl

theorem reportOnly_count {t : State} (h : s.reportOnly t) (c : Counter) (k : Nat) : s.reportOnly (count c k t) :=
  (congrArg (State.setRep · (count c k t).rep) h : _)

theorem reportOnly_raise {t : State} (h : s.reportOnly t) (e : Event) : s.reportOnly (raise e t) :=
  (congrArg (State.setRep · (raise e t).rep) h : _)

/-- The disposition's own counter rises, if it has one (R31). -/
def countDisposition (d : Disposition) (s : State) : State :=
  match dispositionCounter d with
  | some c => count c 1 s
  | none => s

/-- The subframes shown missing are counted, with their event (R28). -/
def countMissing (n : Nat) (s : State) : State := if n = 0 then s else raise .sequenceGap (count .missingSubframes n s)

/-- An event is raised where a condition holds. -/
def raiseIf (b : Bool) (e : Event) (s : State) : State := if b then raise e s else s

theorem countHeader_eq (m : LockMove) (d : Disposition) (s : State) :
    countHeader m d s = raiseIf (decide (d = .runFull)) .runFull (raiseIf m.lost .lockLost (raiseIf m.acquired .lockAcquired
      (countMissing m.missing (countDisposition d (count .headersCompleted 1 s))))) := by
  unfold raiseIf
  simp only [decide_eq_true_eq]
  rfl

theorem reportOnly_countHeader (m : LockMove) (d : Disposition) (s : State) : s.reportOnly (countHeader m d s) := by
  have hif {t : State} (h : s.reportOnly t) (b : Bool) (e : Event) : s.reportOnly (raiseIf b e t) := by
    cases b
    · exact h
    · exact reportOnly_raise h e
  rw [countHeader_eq]
  refine hif (hif (hif ?_ _ _) _ _) _ _
  have hd : s.reportOnly (countDisposition d (count .headersCompleted 1 s)) := by
    unfold countDisposition
    split
    · exact reportOnly_count (reportOnly_count (reportOnly_refl s) _ _) _ _
    · exact reportOnly_count (reportOnly_refl s) _ _
  unfold countMissing
  split
  · exact hd
  · exact reportOnly_raise (reportOnly_count hd _ _) _

theorem counter_raiseIf (b : Bool) (e : Event) (s : State) (c : Counter) : (raiseIf b e s).counter c = s.counter c := by
  cases b <;> rfl

theorem isRaised_raiseIf (b : Bool) (e f : Event) (s : State) :
    (raiseIf b e s).isRaised f = (s.isRaised f || (b && decide (f = e))) := by
  cases b
  · simp [raiseIf]
  · exact isRaised_raise e f s

theorem counter_countDisposition (d : Disposition) (s : State) (c : Counter) :
    ((countDisposition d s).counter c).toNat
      = min 4294967295 ((s.counter c).toNat + if dispositionCounter d = some c then 1 else 0) := by
  have hlt := (s.counter c).isLt
  unfold countDisposition
  split
  next x hx => rw [counter_count_toNat, hx]; simp [eq_comm]
  next hx => rw [hx]; simp; omega

theorem counter_countMissing (n : Nat) (s : State) (c : Counter) :
    ((countMissing n s).counter c).toNat
      = min 4294967295 ((s.counter c).toNat + if c = .missingSubframes then n else 0) := by
  have hlt := (s.counter c).isLt
  unfold countMissing
  split
  next hn => simp [hn]; omega
  next hn => rw [counter_raise, counter_count_toNat]

theorem isRaised_countDisposition (d : Disposition) (s : State) (e : Event) :
    (countDisposition d s).isRaised e = s.isRaised e := by
  unfold countDisposition
  split <;> rfl

theorem isRaised_countMissing (n : Nat) (s : State) (e : Event) :
    (countMissing n s).isRaised e = (s.isRaised e || (decide (n ≠ 0) && decide (e = .sequenceGap))) := by
  unfold countMissing
  split
  next hn => simp [hn]
  next hn => rw [isRaised_raise, isRaised_count]; simp [hn]

/-- What each counter has risen by once a header is counted. -/
theorem counter_countHeader (m : LockMove) (d : Disposition) (s : State) (c : Counter) :
    ((countHeader m d s).counter c).toNat = min 4294967295 ((s.counter c).toNat
      + ((if c = .headersCompleted then 1 else 0) + (if dispositionCounter d = some c then 1 else 0)
        + if c = .missingSubframes then m.missing else 0)) := by
  rw [countHeader_eq, counter_raiseIf, counter_raiseIf, counter_raiseIf, counter_countMissing, counter_countDisposition,
    counter_count_toNat]
  omega

/-- Which events a header raises. -/
theorem isRaised_countHeader (m : LockMove) (d : Disposition) (s : State) (e : Event) :
    (countHeader m d s).isRaised e = (s.isRaised e || (decide (m.missing ≠ 0) && decide (e = .sequenceGap))
      || (m.acquired && decide (e = .lockAcquired)) || (m.lost && decide (e = .lockLost))
      || (decide (d = .runFull) && decide (e = .runFull))) := by
  rw [countHeader_eq, isRaised_raiseIf, isRaised_raiseIf, isRaised_raiseIf, isRaised_countMissing, isRaised_countDisposition,
    isRaised_count]

/-! ## The opening of a subframe (R32, R40, R47, R55) -/

/-- The Rotation Unit at the opening of the next subframe (R93, R96). -/
def State.nextRot (s : State) : RotationUnit :=
  s.rot.openSubframe s.cmd.snap.rate (s.hdr.folded + 1) (midExposure s.hdr.timestamp s.hdr.exposure)

/-- The choice of the next subframe (R45 to R47). -/
def State.nextChoice (s : State) : DarkChoice × Bool := s.darkChoice s.hdr.temperature s.hdr.exposure

/-- The context of the next subframe. -/
def State.nextSubframe (s : State) : Subframe := newSubframe s.hdr (s.hdr.folded + 1) s.nextChoice.1 s.nextRot

/-- The Dark Unit at the opening of the next subframe (R55). -/
def State.nextDark (s : State) : DarkUnit :=
  if s.cmd.mode = .dark then s.dark.openDark s.hdr.temperature s.hdr.exposure else s.dark

/-- The Header Unit at the opening of the next subframe (R32, R40). -/
def State.nextHdr (s : State) : HeaderUnit :=
  { s.hdr.addEntry (openEntry s.hdr s.nextSubframe) with
    folded := s.hdr.folded + 1, landing := [], opened := some s.nextSubframe }

/-- The blocks a subframe's opening writes, and the count and event of R47. -/
theorem openSubframe_eq (s : State) : openSubframe s =
    if s.nextChoice.2 = true then
      raise .tempOutside (count .temperatureOutside 1 (((s.setHdr s.nextHdr).setDark s.nextDark).setRot s.nextRot))
    else ((s.setHdr s.nextHdr).setDark s.nextDark).setRot s.nextRot := rfl

theorem reportOnly_openSubframe (s : State) :
    (((s.setHdr s.nextHdr).setDark s.nextDark).setRot s.nextRot).reportOnly (openSubframe s) := by
  rw [openSubframe_eq]
  split
  · exact reportOnly_raise (reportOnly_count (reportOnly_refl _) _ _) _
  · exact reportOnly_refl _

theorem counter_openSubframe (s : State) (c : Counter) : ((openSubframe s).counter c).toNat =
    min 4294967295 ((s.counter c).toNat + if c = .temperatureOutside ∧ s.nextChoice.2 = true then 1 else 0) := by
  have hlt := (s.counter c).isLt
  rw [openSubframe_eq]
  split
  next hc =>
    rw [counter_raise, counter_count_toNat]
    simp only [hc, and_true]; rfl
  next hc =>
    rw [if_neg fun h => hc h.2]
    show (s.counter c).toNat = _
    omega

theorem isRaised_openSubframe (s : State) (e : Event) :
    (openSubframe s).isRaised e = (s.isRaised e || (s.nextChoice.2 && decide (e = .tempOutside))) := by
  rw [openSubframe_eq]
  split
  next hc => rw [isRaised_raise, isRaised_count, hc]; rfl
  next hc => simp only [Bool.not_eq_true] at hc; rw [hc]; exact (Bool.or_false _).symm

end Sys2Proof.Machine
end

section
/-! PROOFS. The evaluation of a header by its outputs and the blocks it writes, and that of the header a burst completes
(R22, R24 to R32, R40). -/

-- The proofs of this file are gone through one after another: while the tests of the frozen text are checked, the memory
-- limit of the check leaves no room for more threads.
set_option deprecated.oldSectionVars true

namespace Sys2Proof.Machine

variable {s : State}

/-! ## The lock machine's outputs, whatever the case -/

/-- A VALID header goes on to R30: the next one in PROBE, or a further one in LOCKED; `d` is its distance (R26 to R29). -/
def Lock.goesOn (l : Lock) (d : Nat) : Prop := (l = .probe ∧ d = 1) ∨ (l = .locked ∧ 1 ≤ d ∧ d ≤ 32768)

/-- What the lock machine says beside the lock: which headers go on, the gap they show, and lock acquired or lost. -/
theorem lockMove_outputs (l : Lock) (last seq : BitVec 16) (n : Nat) (v : Verdict) :
    let m := lockMove l last n v seq
    (m.disposition = .folded ↔ v = .valid ∧ l.goesOn (seq - last).toNat)
    ∧ (m.missing = if m.disposition = .folded ∧ l = .locked then (seq - last).toNat - 1 else 0)
    ∧ (m.acquired = true ↔ m.disposition = .folded ∧ l = .probe)
    ∧ (m.lost = true ↔ v = .bad ∧ l = .locked ∧ n = 2)
    ∧ m.disposition ≠ .runFull ∧ m.disposition ≠ .mismatch := by
  unfold Lock.goesOn
  cases v with
  | bad =>
    cases l with
    | hunt => simp [lockMove_hunt_bad]
    | probe => simp [lockMove_probe_bad]
    | locked => rw [lockMove_locked_bad]; by_cases hn : n = 2 <;> simp [hn]
  | foreign => simp [lockMove_foreign]
  | valid =>
    cases l with
    | hunt => simp [lockMove_hunt_valid]
    | probe =>
      by_cases hd : (seq - last).toNat = 1
      · simp [lockMove_probe_next hd, hd, -BitVec.toNat_sub]
      · simp [lockMove_probe_skip hd, hd, -BitVec.toNat_sub]
    | locked =>
      rcases Nat.eq_zero_or_pos (seq - last).toNat with hd | hd
      · simp [lockMove_locked_duplicate hd, hd, -BitVec.toNat_sub]
      · by_cases hs : (seq - last).toNat ≤ 32768
        · simp [lockMove_locked_next hd hs, hs, -BitVec.toNat_sub]
          omega
        · simp [lockMove_locked_stale (Nat.lt_of_not_le hs), hs, -BitVec.toNat_sub]

/-! ## What an evaluation writes -/

theorem headerCounted_eq (s : State) : s.headerCounted = (s.setHdr s.movedHdr).setRep s.headerCounted.rep :=
  reportOnly_countHeader _ _ _

theorem headerCounted_hdr (s : State) : s.headerCounted.hdr = s.movedHdr := by rw [headerCounted_eq]; rfl

/-- The next subframe's blocks do not depend on the move of the lock, nor on what is counted. -/
theorem headerCounted_next (s : State) : s.headerCounted.nextRot = s.nextRot ∧ s.headerCounted.nextDark = s.nextDark
    ∧ s.headerCounted.nextChoice = s.nextChoice ∧ s.headerCounted.nextSubframe = s.nextSubframe := by
  rw [headerCounted_eq]
  exact ⟨rfl, rfl, rfl, rfl⟩

/-- A header that opens a subframe: the blocks it writes. -/
theorem evaluateHeader_folded_blocks (h : s.headerDisposition = .folded) :
    (evaluateHeader s).hdr = { s.movedHdr.addEntry (openEntry s.hdr s.nextSubframe) with
      folded := s.hdr.folded + 1, landing := [], opened := some s.nextSubframe }
    ∧ (evaluateHeader s).dark = s.nextDark ∧ (evaluateHeader s).rot = s.nextRot := by
  obtain ⟨hrot, hdark, -, hsub⟩ := headerCounted_next s
  have ho : openSubframe s.headerCounted = _ := reportOnly_openSubframe s.headerCounted
  have hn : s.headerCounted.nextHdr = { s.movedHdr.addEntry (openEntry s.hdr s.nextSubframe) with
      folded := s.hdr.folded + 1, landing := [], opened := some s.nextSubframe } := by
    unfold State.nextHdr
    rw [hsub, headerCounted_hdr]
    rfl
  rw [evaluateHeader_folded h, ho, hrot, hdark, hn]
  exact ⟨rfl, rfl, rfl⟩

/-- A header that opens none: its plain entry, and the Dark and Rotation Units as they stood. -/
theorem evaluateHeader_plain_blocks (h : s.headerDisposition ≠ .folded) :
    (evaluateHeader s).hdr = s.movedHdr.addEntry (plainEntry s.hdr s.headerDisposition)
    ∧ (evaluateHeader s).dark = s.dark ∧ (evaluateHeader s).rot = s.rot := by
  rw [evaluateHeader_plain h, headerCounted_hdr, headerCounted_eq]
  exact ⟨rfl, rfl, rfl⟩

/-- The blocks an evaluation does not concern stand. -/
theorem evaluateHeader_frame (s : State) : evaluateHeader s = { s with
    hdr := (evaluateHeader s).hdr, dark := (evaluateHeader s).dark, rot := (evaluateHeader s).rot
    rep := (evaluateHeader s).rep } := by
  by_cases h : s.headerDisposition = .folded
  · have ho : openSubframe s.headerCounted = _ := reportOnly_openSubframe s.headerCounted
    rw [evaluateHeader_folded h, ho, headerCounted_eq]
    rfl
  · rw [evaluateHeader_plain h, headerCounted_eq]
    rfl

/-- The lock, the last sequence and the bad-run count are those of the move; the line and its marks stand. -/
theorem evaluateHeader_moved (s : State) :
    (evaluateHeader s).hdr.lock = s.headerMove.lock ∧ (evaluateHeader s).hdr.last = s.headerMove.last
    ∧ (evaluateHeader s).hdr.badRun = s.headerMove.badRun ∧ (evaluateHeader s).hdr.line = s.hdr.line
    ∧ (evaluateHeader s).hdr.received = s.hdr.received := by
  by_cases h : s.headerDisposition = .folded
  · rw [(evaluateHeader_folded_blocks h).1]; exact ⟨rfl, rfl, rfl, rfl, rfl⟩
  · rw [(evaluateHeader_plain_blocks h).1]; exact ⟨rfl, rfl, rfl, rfl, rfl⟩

theorem counter_headerCounted (s : State) (c : Counter) :
    (s.headerCounted.counter c).toNat = min 4294967295 ((s.counter c).toNat
      + ((if c = .headersCompleted then 1 else 0) + (if dispositionCounter s.headerDisposition = some c then 1 else 0)
        + if c = .missingSubframes then s.headerMove.missing else 0)) :=
  counter_countHeader s.headerMove s.headerDisposition (s.setHdr s.movedHdr) c

theorem isRaised_headerCounted (s : State) (e : Event) :
    s.headerCounted.isRaised e = (s.isRaised e || (decide (s.headerMove.missing ≠ 0) && decide (e = .sequenceGap))
      || (s.headerMove.acquired && decide (e = .lockAcquired)) || (s.headerMove.lost && decide (e = .lockLost))
      || (decide (s.headerDisposition = .runFull) && decide (e = .runFull))) :=
  isRaised_countHeader s.headerMove s.headerDisposition (s.setHdr s.movedHdr) e

/-- The counters but that of R47 are those of the header's count. -/
theorem counter_evaluateHeader {c : Counter} (hc : c ≠ .temperatureOutside) :
    ((evaluateHeader s).counter c).toNat = (s.headerCounted.counter c).toNat := by
  have hlt := (s.headerCounted.counter c).isLt
  by_cases h : s.headerDisposition = .folded
  · rw [evaluateHeader_folded h, counter_openSubframe, if_neg fun h => hc h.1]; omega
  · rw [evaluateHeader_plain h]; rfl

/-- The events but that of R47 are those of the header's count. -/
theorem isRaised_evaluateHeader {e : Event} (he : e ≠ .tempOutside) :
    (evaluateHeader s).isRaised e = s.headerCounted.isRaised e := by
  by_cases h : s.headerDisposition = .folded
  · rw [evaluateHeader_folded h, isRaised_openSubframe, decide_eq_false he, Bool.and_false, Bool.or_false]
  · rw [evaluateHeader_plain h]; rfl

/-- The temperature count and event of R47, as the header leaves them. -/
theorem evaluateHeader_temperature (s : State) :
    ((evaluateHeader s).counter .temperatureOutside).toNat = min 4294967295 ((s.counter .temperatureOutside).toNat
      + if s.headerDisposition = .folded ∧ s.nextChoice.2 = true then 1 else 0)
    ∧ (evaluateHeader s).isRaised .tempOutside
      = (s.isRaised .tempOutside || (decide (s.headerDisposition = .folded) && s.nextChoice.2)) := by
  have hlt := (s.counter .temperatureOutside).isLt
  have hc := counter_headerCounted s .temperatureOutside
  have hd : dispositionCounter s.headerDisposition ≠ some .temperatureOutside := by
    cases s.headerDisposition <;> simp [dispositionCounter]
  have hr := isRaised_headerCounted s .tempOutside
  simp only [reduceCtorEq, if_false, hd, Nat.add_zero] at hc
  simp only [reduceCtorEq, decide_false, Bool.and_false, Bool.or_false] at hr
  by_cases h : s.headerDisposition = .folded
  · rw [evaluateHeader_folded h, counter_openSubframe, isRaised_openSubframe, hr, (headerCounted_next s).2.2.1]
    simp only [h, true_and, decide_true, Bool.true_and, Bool.and_true, and_true]
    omega
  · rw [evaluateHeader_plain h]
    simp only [h, false_and, if_false, decide_false, Bool.false_and, Bool.or_false]
    exact ⟨hc.trans (by omega), hr⟩

/-! ## A header that completes with no subframe open -/

/-- The state in which the header a burst completes is evaluated. -/
def State.withHeader (s : State) (bytes : List (Nat × Byte)) : State := s.setHdr (s.hdr.completed bytes)

theorem exec_header_evaluated {addr : BitVec 32} {beats : List Beat} (h : s.takesIn (.write addr beats) .capture)
    (ho : addr.toNat - s.active.captureBase.toNat < 4096)
    (hc : (s.hdr.placeBytes (strobedBytes (addr.toNat - s.active.captureBase.toNat) beats)).received = BitVec.allOnes 64)
    (hrun : s.cmd.run = .running) (hopen : s.hdr.opened = none) :
    exec (.headerWrite addr beats) s = .next ((evaluateHeader
      (s.withHeader (strobedBytes (addr.toNat - s.active.captureBase.toNat) beats))).answering .ok []) := by
  rw [exec_header_complete h ho hc]
  generalize strobedBytes (addr.toNat - s.active.captureBase.toNat) beats = bytes
  have hnone : (s.withHeader bytes).hdr.opened = none := (congrArg HeaderUnit.opened (s.hdr.completed_eq _)).trans hopen
  have hf := evaluateHeader_frame (s.withHeader bytes)
  have hw : (answer .ok [] (evaluateHeader (s.withHeader bytes))).waiting = [] :=
    (congrArg State.waiting hf).trans h.1.2.1
  have hcc : completeHeader (s.setHdr (s.hdr.completed bytes)) = answer .ok [] (evaluateHeader (s.withHeader bytes)) :=
    completeHeader_closed hrun hnone
  rw [hcc, setWaiting_nil_of hw, answer_eq_answering ((congrArg State.inHand hf).trans h.1.1)]

/-- What the burst leaves of the Header Unit as it was. -/
theorem withHeader_hdr (s : State) (bytes : List (Nat × Byte)) :
    (s.withHeader bytes).hdr = { s.hdr with line := (s.hdr.placeBytes bytes).line, received := 0 } := s.hdr.completed_eq bytes

theorem withHeader_headerMove (s : State) (bytes : List (Nat × Byte)) : (s.withHeader bytes).headerMove =
    lockMove s.hdr.lock s.hdr.last s.hdr.badRun ((s.hdr.placeBytes bytes).verdict s.cmd.snap.runTag)
      (s.hdr.placeBytes bytes).seq := by
  unfold State.headerMove
  rw [withHeader_hdr]
  rfl

theorem withHeader_headerDisposition (s : State) (bytes : List (Nat × Byte)) : (s.withHeader bytes).headerDisposition =
    finalDisposition (s.withHeader bytes) (s.withHeader bytes).headerMove.disposition := rfl

/-- The counters of the table of R31. -/
theorem dispositionCounter_iff (d : Disposition) (c : Counter) : dispositionCounter d = some c ↔
    (d, c) ∈ [(.skipped, Counter.skipped), (.duplicate, .duplicate), (.stale, .stale), (.bad, .bad), (.foreign, .foreign),
      (.mismatch, .mismatch), (.runFull, .runFull)] := by
  cases d <;> simp [dispositionCounter, eq_comm]

/-- R30 gives its three dispositions to the headers that go on, and to no other. -/
theorem finalDisposition_iff {d : Disposition} (hf : d ≠ .runFull) (hm : d ≠ .mismatch) :
    (finalDisposition s d = .folded ∨ finalDisposition s d = .runFull ∨ finalDisposition s d = .mismatch) ↔ d = .folded := by
  by_cases h : d = .folded
  · subst h
    simp only [iff_true]
    unfold finalDisposition
    split
    · exact .inl rfl
    · split
      · exact .inr (.inl rfl)
      · split
        · exact .inr (.inr rfl)
        · exact .inl rfl
  · rw [finalDisposition_of_ne h]
    simp [h, hf, hm]

end Sys2Proof.Machine
end

section
/-! PROOFS. A completed header with no subframe open: the table of chapter 2 (R22 to R31, R39, R40; O29). -/

-- The proofs of this file are gone through one after another: while the tests of the frozen text are checked, the memory
-- limit of the check leaves no room for more threads.
set_option deprecated.oldSectionVars true

namespace Sys2Proof.Machine

section Completed

variable (s : State) (bytes : List (Nat × Byte))

/-- The lock machine's outputs for the header a burst completes. -/
theorem withHeader_outputs :
    let h := s.hdr.placeBytes bytes
    let m := (s.withHeader bytes).headerMove
    let d := (h.seq - s.hdr.last).toNat
    (m.disposition = .folded ↔ h.verdict s.cmd.snap.runTag = .valid ∧ s.hdr.lock.goesOn d)
    ∧ (m.missing = if m.disposition = .folded ∧ s.hdr.lock = .locked then d - 1 else 0)
    ∧ (m.acquired = true ↔ m.disposition = .folded ∧ s.hdr.lock = .probe)
    ∧ (m.lost = true ↔ h.verdict s.cmd.snap.runTag = .bad ∧ s.hdr.lock = .locked ∧ s.hdr.badRun = 2)
    ∧ m.disposition ≠ .runFull ∧ m.disposition ≠ .mismatch := by
  dsimp only
  rw [withHeader_headerMove]
  exact lockMove_outputs _ _ _ _ _

/-- R30 gives its dispositions to the headers that go on. -/
theorem withHeader_goesOn_iff :
    ((s.withHeader bytes).headerDisposition = .folded ∨ (s.withHeader bytes).headerDisposition = .runFull
      ∨ (s.withHeader bytes).headerDisposition = .mismatch) ↔ (s.withHeader bytes).headerMove.disposition = .folded := by
  obtain ⟨-, -, -, -, hf, hm⟩ := withHeader_outputs s bytes
  exact finalDisposition_iff hf hm

/-- The state after the header: evaluated, and its burst answered. -/
def State.afterHeader : State := (evaluateHeader (s.withHeader bytes)).answering .ok []

theorem afterHeader_isRaised {e : Event} (he : e ≠ .tempOutside) : (s.afterHeader bytes).isRaised e =
    (s.isRaised e || (decide ((s.withHeader bytes).headerMove.missing ≠ 0) && decide (e = .sequenceGap))
      || ((s.withHeader bytes).headerMove.acquired && decide (e = .lockAcquired))
      || ((s.withHeader bytes).headerMove.lost && decide (e = .lockLost))
      || (decide ((s.withHeader bytes).headerDisposition = .runFull) && decide (e = .runFull))) :=
  (isRaised_evaluateHeader he).trans (isRaised_headerCounted (s.withHeader bytes) e)

/-- The counters after the header, by its disposition and the gap it shows (R28, R31). -/
theorem afterHeader_counter {c : Counter} (hc : c ≠ .temperatureOutside) : ((s.afterHeader bytes).counter c).toNat =
    min 4294967295 ((s.counter c).toNat
      + ((if c = .headersCompleted then 1 else 0)
        + (if dispositionCounter (s.withHeader bytes).headerDisposition = some c then 1 else 0)
        + if c = .missingSubframes then (s.withHeader bytes).headerMove.missing else 0)) :=
  (counter_evaluateHeader hc).trans (counter_headerCounted (s.withHeader bytes) c)

/-- The lock, the last sequence and the bad-run count after the header are those of a move the lock machine makes of it. -/
theorem afterHeader_moved {m : LockMove} (h : (s.withHeader bytes).headerMove = m) :
    (s.afterHeader bytes).hdr.lock = m.lock ∧ (s.afterHeader bytes).hdr.last = m.last
      ∧ (s.afterHeader bytes).hdr.badRun = m.badRun := by
  obtain ⟨hlock, hlast, hbad, -, -⟩ := evaluateHeader_moved (s.withHeader bytes)
  rw [h] at hlock hlast hbad
  exact ⟨hlock, hlast, hbad⟩

/-- The counters that no disposition has of its own (R31). -/
theorem dispositionCounter_ne (d : Disposition) : dispositionCounter d ≠ some .headersCompleted
    ∧ dispositionCounter d ≠ some .missingSubframes := by
  cases d <;> simp [dispositionCounter]

theorem afterHeader_missing : ((s.afterHeader bytes).counter .missingSubframes).toNat =
    min 4294967295 ((s.counter .missingSubframes).toNat + (s.withHeader bytes).headerMove.missing) := by
  rw [afterHeader_counter s bytes (by decide), if_neg (by decide), if_neg (dispositionCounter_ne _).2, if_pos rfl,
    Nat.zero_add]

/-- The counters in the form of the table: one rises for the header and one for its disposition, and the missing subframes
by the gap that a header in LOCKED that goes on shows. -/
theorem afterHeader_counter_table {c : Counter} (hc : c ≠ .temperatureOutside) :
    ((s.afterHeader bytes).counter c).toNat = min 4294967295 ((s.counter c).toNat +
      (if c = .headersCompleted ∨ ((s.withHeader bytes).headerDisposition, c) ∈ [(.skipped, Counter.skipped),
          (.duplicate, .duplicate), (.stale, .stale), (.bad, .bad), (.foreign, .foreign), (.mismatch, .mismatch),
          (.runFull, .runFull)] then 1
       else if c = .missingSubframes ∧ ((s.withHeader bytes).headerDisposition = .folded
          ∨ (s.withHeader bytes).headerDisposition = .runFull ∨ (s.withHeader bytes).headerDisposition = .mismatch)
          ∧ s.hdr.lock = .locked then ((s.hdr.placeBytes bytes).seq - s.hdr.last).toNat - 1
       else 0)) := by
  obtain ⟨-, hmiss, -, -, -, -⟩ := withHeader_outputs s bytes
  simp only [afterHeader_counter s bytes hc, ← dispositionCounter_iff, withHeader_goesOn_iff]
  congr 2
  by_cases h1 : c = .headersCompleted
  · subst h1
    simp [(dispositionCounter_ne _).1]
  · by_cases h2 : c = .missingSubframes
    · subst h2
      simp only [(dispositionCounter_ne _).2, reduceCtorEq, if_false, or_self, if_true, true_and, Nat.zero_add]
      exact hmiss
    · simp [h1, h2]

/-- The events of R28 to R30 after the header; those it does not raise stand. -/
theorem afterHeader_events :
    ((s.afterHeader bytes).isRaised .lockAcquired = true ↔ s.isRaised .lockAcquired = true
      ∨ ((s.withHeader bytes).headerMove.disposition = .folded ∧ s.hdr.lock = .probe))
    ∧ ((s.afterHeader bytes).isRaised .lockLost = true ↔ s.isRaised .lockLost = true
      ∨ ((s.hdr.placeBytes bytes).verdict s.cmd.snap.runTag = .bad ∧ s.hdr.lock = .locked ∧ s.hdr.badRun = 2))
    ∧ ((s.afterHeader bytes).isRaised .sequenceGap = true ↔ s.isRaised .sequenceGap = true
      ∨ ((s.withHeader bytes).headerMove.disposition = .folded ∧ s.hdr.lock = .locked
        ∧ 2 ≤ ((s.hdr.placeBytes bytes).seq - s.hdr.last).toNat))
    ∧ ((s.afterHeader bytes).isRaised .runFull = true ↔ s.isRaised .runFull = true
      ∨ (s.withHeader bytes).headerDisposition = .runFull)
    ∧ ∀ e, e ∈ [Event.commandDone, .checkpointDone, .memoryFault, .shortSubframe] →
      (s.afterHeader bytes).isRaised e = s.isRaised e := by
  obtain ⟨-, hmiss, hacq, hlost, -, -⟩ := withHeader_outputs s bytes
  have hr := fun (e : Event) (he : e ≠ .tempOutside) => afterHeader_isRaised s bytes he
  refine ⟨?_, ?_, ?_, ?_, fun e he => ?_⟩
  · rw [hr _ (by decide), ← hacq]; simp
  · rw [hr _ (by decide), ← hlost]; simp
  · rw [hr _ (by decide), hmiss]
    by_cases hg : (s.withHeader bytes).headerMove.disposition = .folded ∧ s.hdr.lock = .locked
    · have hd : ((s.hdr.placeBytes bytes).seq - s.hdr.last).toNat - 1 ≠ 0
          ↔ 2 ≤ ((s.hdr.placeBytes bytes).seq - s.hdr.last).toNat := by omega
      simp [hg, ← hd, -BitVec.toNat_sub]
    · rw [if_neg hg]
      simp [← and_assoc, hg]
  · rw [hr _ (by decide)]; simp
  · simp only [List.mem_cons, List.not_mem_nil, or_false] at he
    rcases he with rfl | rfl | rfl | rfl <;> rw [hr _ (by decide)] <;> simp

/-- The disposition after R30 is the lock machine's own, unless the header goes on. -/
theorem withHeader_disposition_of {d : Disposition} (h : (s.withHeader bytes).headerMove.disposition = d)
    (hd : d ≠ .folded) : (s.withHeader bytes).headerDisposition = d := by
  rw [withHeader_headerDisposition, h, finalDisposition_of_ne hd]

/-- The three dispositions of a header that goes on (R30). -/
theorem withHeader_disposition_goesOn (h : (s.withHeader bytes).headerMove.disposition = .folded) :
    let other := s.cmd.mode = .dark ∧ s.dark.erefSet = true ∧ (s.hdr.placeBytes bytes).exposure ≠ s.dark.eref
    (s.hdr.folded = 65535 → (s.withHeader bytes).headerDisposition = .runFull)
    ∧ (s.hdr.folded ≠ 65535 → other → (s.withHeader bytes).headerDisposition = .mismatch)
    ∧ (s.hdr.folded ≠ 65535 → ¬other → (s.withHeader bytes).headerDisposition = .folded) := by
  have hfold : (s.withHeader bytes).hdr.folded = s.hdr.folded := by rw [withHeader_hdr]
  rw [withHeader_headerDisposition, h, ← hfold]
  exact ⟨finalDisposition_full, finalDisposition_mismatch, finalDisposition_folded⟩

/-- The blocks the header does not concern stand, and its burst is answered OK. -/
theorem afterHeader_frame (hhand : s.inHand = none) :
    let t := s.afterHeader bytes
    t.answers = s.answers ++ [⟨.ok, []⟩] ∧ t.inHand = none ∧ t.hdr.received = 0
      ∧ t.hdr.line = (s.hdr.placeBytes bytes).line
      ∧ t.cmd = s.cmd ∧ t.cache = s.cache ∧ t.arb = s.arb ∧ t.bulk = s.bulk ∧ t.classes = s.classes
      ∧ t.waiting = s.waiting ∧ t.planBase = s.planBase ∧ t.resetLow = s.resetLow ∧ t.pending = s.pending := by
  obtain ⟨-, -, -, hline, hreceived⟩ := evaluateHeader_moved (s.withHeader bytes)
  have hf := evaluateHeader_frame (s.withHeader bytes)
  rw [withHeader_hdr] at hline hreceived
  rw [State.afterHeader]
  generalize evaluateHeader (s.withHeader bytes) = e at hf hline hreceived
  rw [hf]
  exact ⟨rfl, hhand, hreceived, hline, rfl, rfl, rfl, rfl, rfl, rfl, rfl, rfl, rfl⟩

/-- A header that is not FOLDED: a plain entry, and no subframe opened (R40). -/
theorem afterHeader_plain (hopen : s.hdr.opened = none) (hd : (s.withHeader bytes).headerDisposition ≠ .folded) :
    let h := s.hdr.placeBytes bytes
    let t := s.afterHeader bytes
    t.hdr.opened = none ∧ t.hdr.folded = s.hdr.folded ∧ t.hdr.landing = s.hdr.landing ∧ t.dark = s.dark
      ∧ t.rot = s.rot ∧ t.counter .temperatureOutside = s.counter .temperatureOutside
      ∧ t.isRaised .tempOutside = s.isRaised .tempOutside
      ∧ t.hdr.head = s.hdr.head + 1 ∧ t.hdr.count = min 16 (s.hdr.count + 1)
      ∧ ∀ k, Table.get none t.hdr.history k =
          if k = s.hdr.head.toNat then
            some ⟨h.seq, (s.withHeader bytes).headerDisposition, false, none, none, h.temperature, 0, h.exposure,
              h.timestamp, 0, 0, 0⟩
          else Table.get none s.hdr.history k := by
  obtain ⟨hhdr, hdark, hrot⟩ := evaluateHeader_plain_blocks hd
  obtain ⟨hcount, hraise⟩ := evaluateHeader_temperature (s.withHeader bytes)
  have hw := withHeader_hdr s bytes
  have hlt := (s.counter .temperatureOutside).isLt
  have ht : (s.afterHeader bytes).hdr
      = (s.withHeader bytes).movedHdr.addEntry (plainEntry (s.withHeader bytes).hdr (s.withHeader bytes).headerDisposition) := hhdr
  have hmv : (s.withHeader bytes).movedHdr.opened = s.hdr.opened ∧ (s.withHeader bytes).movedHdr.folded = s.hdr.folded
      ∧ (s.withHeader bytes).movedHdr.landing = s.hdr.landing ∧ (s.withHeader bytes).movedHdr.head = s.hdr.head
      ∧ (s.withHeader bytes).movedHdr.count = s.hdr.count ∧ (s.withHeader bytes).movedHdr.history = s.hdr.history := by
    unfold State.movedHdr
    rw [hw]
    exact ⟨rfl, rfl, rfl, rfl, rfl, rfl⟩
  obtain ⟨mopened, mfolded, mlanding, mhead, mcount, mhistory⟩ := hmv
  dsimp only
  rw [ht]
  refine ⟨mopened.trans hopen, mfolded, mlanding, hdark, hrot, BitVec.eq_of_toNat_eq ?_, ?_, congrArg (· + 1) mhead,
    congrArg (fun n => min 16 (n + 1)) mcount, fun k => ?_⟩
  · refine hcount.trans ?_
    rw [if_neg fun h => hd h.1]
    show min 4294967295 ((s.counter .temperatureOutside).toNat + 0) = _
    omega
  · refine hraise.trans ?_
    rw [decide_eq_false hd]
    exact Bool.or_false _
  · rw [HeaderUnit.addEntry, Table.get_set, mhead, mhistory]
    have hentry : plainEntry (s.withHeader bytes).hdr (s.withHeader bytes).headerDisposition
        = plainEntry (s.hdr.placeBytes bytes) (s.withHeader bytes).headerDisposition := by rw [hw]; rfl
    rw [hentry]
    rfl

end Completed

/-- Settles O29: the lock machine's cases one by one, then the counters, events and history entry of the disposition. -/
theorem headerMovesTheLock : Obligations.HeaderMovesTheLock := by
  intro s addr beats htake off h hoff hrec hrun hopen bad foreign d
  have hm : (s.withHeader (strobedBytes off beats)).headerMove
      = lockMove s.hdr.lock s.hdr.last s.hdr.badRun (h.verdict s.cmd.snap.runTag) h.seq := withHeader_headerMove s _
  have hmoved := fun m hm => afterHeader_moved s (strobedBytes off beats) (m := m) hm
  obtain ⟨hgoes, hmiss, -, -, -, -⟩ := withHeader_outputs s (strobedBytes off beats)
  obtain ⟨hacquired, hlost, hgap, hfull, hothers⟩ := afterHeader_events s (strobedBytes off beats)
  have vbad (hb : bad) : h.verdict s.cmd.snap.runTag = .bad := HeaderUnit.verdict_bad hb
  have vforeign (hb : ¬bad) (hf : foreign) : h.verdict s.cmd.snap.runTag = .foreign := HeaderUnit.verdict_foreign hb hf
  have vvalid (hb : ¬bad) (hf : ¬foreign) : h.verdict s.cmd.snap.runTag = .valid := HeaderUnit.verdict_valid hb hf
  refine ⟨s.afterHeader (strobedBytes off beats), exec_header_evaluated htake hoff hrec hrun hopen, ?_, rfl, ?_, ?_⟩
  · refine ⟨fun hb hl => hmoved ⟨.hunt, s.hdr.last, s.hdr.badRun, .bad, 0, false, false⟩ ?_,
      fun hb hl => hmoved ⟨.hunt, s.hdr.last, s.hdr.badRun, .bad, 0, false, false⟩ ?_, fun hb hl hn => ?_,
      fun hb hl hn => hmoved ⟨.locked, s.hdr.last, s.hdr.badRun + 1, .bad, 0, false, false⟩ ?_,
      fun hb hf => hmoved ⟨s.hdr.lock, s.hdr.last, s.hdr.badRun, .foreign, 0, false, false⟩ ?_,
      fun hb hf hl => hmoved ⟨.probe, h.seq, s.hdr.badRun, .skipped, 0, false, false⟩ ?_, fun hb hf hl hd => ?_,
      fun hb hf hl hd => hmoved ⟨.probe, h.seq, s.hdr.badRun, .skipped, 0, false, false⟩ ?_,
      fun hb hf hl hd => hmoved ⟨.locked, s.hdr.last, 0, .duplicate, 0, false, false⟩ ?_, fun hb hf hl hd hd' => ?_,
      fun hb hf hl hd => hmoved ⟨.locked, s.hdr.last, s.hdr.badRun, .stale, 0, false, false⟩ ?_⟩
    · rw [hm, vbad hb, hl, lockMove_hunt_bad]
    · rw [hm, vbad hb, hl, lockMove_probe_bad]
    · have hmv := hmoved ⟨.hunt, s.hdr.last, 0, .bad, 0, false, true⟩
        (by rw [hm, vbad hb, hl, lockMove_locked_bad, if_pos hn])
      exact ⟨hmv.1, hmv.2.1, hmv.2.2, hlost.mpr (.inr ⟨vbad hb, hl, hn⟩)⟩
    · rw [hm, vbad hb, hl, lockMove_locked_bad, if_neg hn]
    · rw [hm, vforeign hb hf, lockMove_foreign]
    · rw [hm, vvalid hb hf, hl, lockMove_hunt_valid]
    · have hnext := lockMove_probe_next (n := s.hdr.badRun) hd
      have hmv := hmoved ⟨.locked, h.seq, 0, .folded, 0, true, false⟩ (by rw [hm, vvalid hb hf, hl, hnext])
      exact ⟨hmv.1, hmv.2.1, hmv.2.2, hacquired.mpr (.inr ⟨hgoes.mpr ⟨vvalid hb hf, .inl ⟨hl, hd⟩⟩, hl⟩)⟩
    · rw [hm, vvalid hb hf, hl, lockMove_probe_skip hd]
    · rw [hm, vvalid hb hf, hl, lockMove_locked_duplicate hd]
    · have hnext := lockMove_locked_next (n := s.hdr.badRun) hd hd'
      have hfold := hgoes.mpr ⟨vvalid hb hf, .inr ⟨hl, hd, hd'⟩⟩
      have hmv := hmoved ⟨.locked, h.seq, 0, .folded, d - 1, false, false⟩ (by rw [hm, vvalid hb hf, hl, hnext])
      refine ⟨hmv.1, hmv.2.1, hmv.2.2, ?_, fun h2 => hgap.mpr (.inr ⟨hfold, hl, h2⟩)⟩
      rw [afterHeader_missing, hmiss, if_pos ⟨hfold, hl⟩]
    · rw [hm, vvalid hb hf, hl, lockMove_locked_stale hd]
  · intro valid next full other
    have hnext : next ↔ (s.withHeader (strobedBytes off beats)).headerMove.disposition = .folded :=
      (and_congr_left' HeaderUnit.verdict_valid_iff.symm).trans hgoes.symm
    have hdisp (disp : Disposition) := withHeader_disposition_of s (strobedBytes off beats) (d := disp)
    have hgo (hn : next) := withHeader_disposition_goesOn s (strobedBytes off beats) (hnext.mp hn)
    refine ⟨(s.withHeader (strobedBytes off beats)).headerDisposition, fun hb => ?_, fun hb hf => ?_, fun hv hl => ?_,
      fun hv hl hd => ?_, fun hv hl hd => ?_, fun hn => (hgo hn).1, fun hn => (hgo hn).2.1, fun hn => (hgo hn).2.2,
      fun c hc => afterHeader_counter_table s _ hc, ?_, ?_, ?_, hfull, hothers,
      fun hd => afterHeader_plain s _ hopen hd⟩
    · exact hdisp .bad (by rw [hm, vbad hb, lockMove_bad_disposition]) nofun
    · exact hdisp .foreign (by rw [hm, vforeign hb hf, lockMove_foreign]) nofun
    · refine hdisp .skipped ?_ nofun
      rcases hl with hl | ⟨hl, hd⟩
      · rw [hm, vvalid hv.1 hv.2, hl, lockMove_hunt_valid]
      · rw [hm, vvalid hv.1 hv.2, hl, lockMove_probe_skip hd]
    · exact hdisp .duplicate (by rw [hm, vvalid hv.1 hv.2, hl, lockMove_locked_duplicate hd]) nofun
    · exact hdisp .stale (by rw [hm, vvalid hv.1 hv.2, hl, lockMove_locked_stale hd]) nofun
    · rw [hacquired, hnext]
    · rw [hlost, HeaderUnit.verdict_bad_iff]
    · rw [hgap, hnext]
  · exact afterHeader_frame s _ htake.1.1

end Sys2Proof.Machine
end

section
/-! PROOFS. The subframe a FOLDED header opens (O30): the Rotation Unit, the Dark Unit and the choice at an opening, then the
blocks of the evaluation. -/

-- The proofs of this file are gone through one after another: while the tests of the frozen text are checked, the memory
-- limit of the check leaves no room for more threads.
set_option deprecated.oldSectionVars true

namespace Sys2Proof.Machine

/-- The Rotation Unit at an opening: t0 at fold index 1, the phase of the elapsed time, its cosine and sine (R93 to R97). -/
theorem RotationUnit.openSubframe_spec (r : RotationUnit) (rate : BitVec 32) (k : BitVec 16) (tmid : BitVec 32) :
    let q := r.openSubframe rate k tmid
    q.t0 = (if k = 1 ∧ r.t0Set = false then tmid else r.t0) ∧ q.t0Set = (decide (k = 1) || r.t0Set)
    ∧ (q.phase.toNat : Int) = rate.toInt * (if q.t0Set = true then (tmid - q.t0).toInt else 0) % 2 ^ 40
    ∧ q.c = (cosSin q.phase).1 ∧ q.s = (cosSin q.phase).2 := by
  unfold RotationUnit.openSubframe phaseOf RotationUnit.elapsed
  dsimp only
  rw [BitVec.toNat_ofInt, Int.toNat_of_nonneg (Int.emod_nonneg _ (by decide))]
  by_cases hk : k = 1 ∧ r.t0Set = false
  · rw [if_pos hk]
    exact ⟨(if_pos hk).symm, by simp [hk.1], rfl, rfl, rfl⟩
  · rw [if_neg hk]
    refine ⟨(if_neg hk).symm, ?_, rfl, rfl, rfl⟩
    by_cases h1 : k = 1
    · simp only [h1, true_and, Bool.not_eq_false] at hk
      simp [hk]
    · rw [decide_eq_false h1, Bool.false_or]

/-- The Dark Unit at an opening in a DARK run (R55); outside s64 the sum is the free value of log 10. -/
theorem DarkUnit.openDark_spec (d : DarkUnit) (temperature : BitVec 16) (exposure : BitVec 32) :
    let q := d.openDark temperature exposure
    q.eref = (if d.erefSet = true then d.eref else exposure) ∧ q.erefSet = true ∧ q.slots = d.slots
    ∧ (-(2 : Int) ^ 63 ≤ d.tempSum.toInt + temperature.toInt → d.tempSum.toInt + temperature.toInt < 2 ^ 63 →
      q.tempSum.toInt = d.tempSum.toInt + temperature.toInt) := by
  refine ⟨rfl, rfl, rfl, fun hlo hhi => ?_⟩
  show (addTemperature d.tempSum temperature).toInt = _
  unfold addTemperature
  rw [if_pos ⟨hlo, hhi⟩]
  exact BitVec.toInt_ofInt_eq_self (by decide) hlo hhi

/-- The choice of an opening: none in a DARK run or with dark use clear (R45). -/
theorem State.darkChoice_none {s : State} (h : s.cmd.mode = .dark ∨ s.cmd.snap.darkUse = false) (temperature : BitVec 16)
    (exposure : BitVec 32) : s.darkChoice temperature exposure = (⟨none, none, 0⟩, false) := by
  refine if_neg fun ⟨hl, hu⟩ => ?_
  rcases h with h | h
  · rw [hl] at h; cases h
  · rw [hu] at h; cases h

section Completed

variable (s : State) (bytes : List (Nat × Byte))

/-- The blocks at the next opening, from the line the burst has completed. -/
theorem withHeader_next :
    let h := s.hdr.placeBytes bytes
    let u := s.withHeader bytes
    u.nextRot = s.rot.openSubframe s.cmd.snap.rate (s.hdr.folded + 1) (midExposure h.timestamp h.exposure)
    ∧ u.nextChoice = s.darkChoice h.temperature h.exposure
    ∧ u.nextDark = (if s.cmd.mode = .dark then s.dark.openDark h.temperature h.exposure else s.dark)
    ∧ u.nextSubframe = ⟨s.hdr.folded + 1, h.temperature, h.exposure, midExposure h.timestamp h.exposure,
        u.nextChoice.1, u.nextRot.phase, u.nextRot.c, u.nextRot.s, 0, s.hdr.head⟩ := by
  unfold State.nextRot State.nextChoice State.nextDark State.nextSubframe State.nextChoice State.nextRot newSubframe
  dsimp only
  rw [withHeader_hdr]
  exact ⟨rfl, rfl, rfl, rfl⟩

/-- The Header Unit after a FOLDED header (R32, R39, R40). -/
theorem afterHeader_folded_hdr (hd : (s.withHeader bytes).headerDisposition = .folded) :
    let h := s.hdr.placeBytes bytes
    let t := s.afterHeader bytes
    let sub := (s.withHeader bytes).nextSubframe
    t.hdr.opened = some sub ∧ t.hdr.folded = s.hdr.folded + 1 ∧ (∀ i, Table.get false t.hdr.landing i = false)
    ∧ t.hdr.head = s.hdr.head + 1 ∧ t.hdr.count = min 16 (s.hdr.count + 1)
    ∧ ∀ i, Table.get none t.hdr.history i =
        if i = s.hdr.head.toNat then
          some ⟨h.seq, .folded, true, sub.choice.a.map SlotUse.slot, sub.choice.b.map SlotUse.slot, h.temperature, sub.index,
            h.exposure, h.timestamp, sub.choice.weight, sub.phase.extractLsb' 24 16, 0⟩
        else Table.get none s.hdr.history i := by
  have hb := (evaluateHeader_folded_blocks hd).1
  dsimp only
  generalize (s.withHeader bytes).nextSubframe = sub at hb
  have ht : (s.afterHeader bytes).hdr = (evaluateHeader (s.withHeader bytes)).hdr := rfl
  rw [ht, hb]
  unfold State.movedHdr
  rw [withHeader_hdr]
  refine ⟨rfl, rfl, fun _ => rfl, rfl, rfl, fun i => ?_⟩
  rw [HeaderUnit.addEntry, Table.get_set]
  rfl

/-- The lock after a valid header that goes on: LOCKED, on its sequence number, with no bad run (R24, R26). -/
theorem afterHeader_goesOn_moved (hv : (s.hdr.placeBytes bytes).verdict s.cmd.snap.runTag = .valid)
    (hgo : s.hdr.lock.goesOn ((s.hdr.placeBytes bytes).seq - s.hdr.last).toNat) :
    let t := s.afterHeader bytes
    t.hdr.lock = .locked ∧ t.hdr.last = (s.hdr.placeBytes bytes).seq ∧ t.hdr.badRun = 0 := by
  have hm := withHeader_headerMove s bytes
  rw [hv] at hm
  rcases hgo with ⟨hl, hd⟩ | ⟨hl, hd, hd'⟩
  · rw [hl, lockMove_probe_next hd] at hm
    exact afterHeader_moved s bytes hm
  · rw [hl, lockMove_locked_next hd hd'] at hm
    exact afterHeader_moved s bytes hm

/-- The Rotation Unit and the context a FOLDED header opens with (R93 to R97, R47). -/
theorem afterHeader_folded_rot (hd : (s.withHeader bytes).headerDisposition = .folded) :
    let h := s.hdr.placeBytes bytes
    let k := s.hdr.folded + 1
    let tmid := midExposure h.timestamp h.exposure
    let t := s.afterHeader bytes
    let sub := (s.withHeader bytes).nextSubframe
    sub.index = k ∧ sub.tmid = tmid ∧ sub.landed = 0 ∧ sub.temperature = h.temperature ∧ sub.exposure = h.exposure
    ∧ sub.phase = t.rot.phase ∧ sub.c = t.rot.c ∧ sub.s = t.rot.s ∧ sub.position = s.hdr.head
    ∧ t.rot = s.rot.openSubframe s.cmd.snap.rate k tmid := by
  obtain ⟨hrot, -, -, hsub⟩ := withHeader_next s bytes
  have ht : (s.afterHeader bytes).rot = (s.withHeader bytes).nextRot := (evaluateHeader_folded_blocks hd).2.2
  dsimp only
  rw [ht, hsub]
  exact ⟨rfl, rfl, rfl, rfl, rfl, rfl, rfl, rfl, rfl, hrot⟩

/-- The choice a FOLDED header opens with, and what it leaves of a temperature outside the library (R45, R46). -/
theorem afterHeader_folded_choice (hd : (s.withHeader bytes).headerDisposition = .folded) :
    let h := s.hdr.placeBytes bytes
    let t := s.afterHeader bytes
    let ch := s.darkChoice h.temperature h.exposure
    (s.withHeader bytes).nextSubframe.choice = ch.1
    ∧ (t.counter .temperatureOutside).toNat =
        min 4294967295 ((s.counter .temperatureOutside).toNat + if ch.2 = true then 1 else 0)
    ∧ t.isRaised .tempOutside = (ch.2 || s.isRaised .tempOutside) := by
  obtain ⟨-, hchoice, -, hsub⟩ := withHeader_next s bytes
  obtain ⟨hcount, hraise⟩ := evaluateHeader_temperature (s.withHeader bytes)
  rw [hchoice] at hsub hcount hraise
  simp only [hd, true_and, decide_true, Bool.true_and] at hcount hraise
  exact ⟨congrArg Subframe.choice hsub, hcount, hraise.trans (Bool.or_comm _ _)⟩

/-- The Dark Unit after a FOLDED header (R55). -/
theorem afterHeader_folded_dark (hd : (s.withHeader bytes).headerDisposition = .folded) :
    let h := s.hdr.placeBytes bytes
    (s.afterHeader bytes).dark = if s.cmd.mode = .dark then s.dark.openDark h.temperature h.exposure else s.dark :=
  (evaluateHeader_folded_blocks hd).2.1.trans (withHeader_next s bytes).2.2.1

end Completed

/-- Settles O30: a header that goes on and that neither case of R30 meets is FOLDED; its evaluation's blocks, one by one. -/
theorem foldedHeaderOpensASubframe : Obligations.FoldedHeaderOpensASubframe := by
  intro s addr beats htake off h d k tmid sum hoff hrec hrun hopen hmark hsum hexp htag hgo hfull hother
  have hex := exec_header_evaluated htake hoff hrec hrun hopen
  have hv : h.verdict s.cmd.snap.runTag = .valid := HeaderUnit.verdict_valid_iff.mpr
    ⟨fun hb => hb.elim (fun hb => hb hmark) (fun hb => hb.elim (fun hb => hb hsum) hexp), fun hf => hf htag⟩
  have hfold := (withHeader_outputs s (strobedBytes off beats)).1.mpr ⟨hv, hgo⟩
  have hdisp := (withHeader_disposition_goesOn s (strobedBytes off beats) hfold).2.2 hfull hother
  obtain ⟨hlock, hlast, hbad⟩ := afterHeader_goesOn_moved s (strobedBytes off beats) hv hgo
  obtain ⟨hopened, hfolded, hlanding, hhead, hcount, hhistory⟩ := afterHeader_folded_hdr s (strobedBytes off beats) hdisp
  obtain ⟨hindex, htmid, hlanded, htemp, hexposure, hphase, hc, hs, hposition, hrot⟩ :=
    afterHeader_folded_rot s (strobedBytes off beats) hdisp
  obtain ⟨hchoice, htcount, htraise⟩ := afterHeader_folded_choice s (strobedBytes off beats) hdisp
  have hdark := afterHeader_folded_dark s (strobedBytes off beats) hdisp
  obtain ⟨hq0, hq0Set, hqphase, hqc, hqs⟩ := RotationUnit.openSubframe_spec s.rot s.cmd.snap.rate k tmid
  have hrot' : (s.afterHeader (strobedBytes off beats)).rot = s.rot.openSubframe s.cmd.snap.rate k tmid := hrot
  rw [← hrot'] at hq0 hq0Set hqphase hqc hqs
  rw [hindex] at hhistory
  refine ⟨s.afterHeader (strobedBytes off beats), (s.withHeader (strobedBytes off beats)).nextSubframe, hex, hopened, hfolded,
    hlanding, hlock, hlast, hbad, hindex, htmid, hlanded, htemp, hexposure, hphase, hc, hs, hposition, hq0, hq0Set, hqphase,
    hqc, hqs, fun hno => ?_, fun hlight huse => ?_, fun hlight => ?_, fun hdrk => ?_, hhead, hcount, hhistory⟩
  · rw [State.darkChoice_none hno] at hchoice htcount htraise
    have hlt := (s.counter .temperatureOutside).isLt
    exact ⟨hchoice, BitVec.eq_of_toNat_eq (htcount.trans (by simp; omega)), htraise⟩
  · have hch : s.darkChoice h.temperature h.exposure
        = chooseSlots (s.dark.matching s.cmd.snap) h.temperature h.exposure := if_pos ⟨hlight, huse⟩
    rw [hch] at hchoice htcount htraise
    exact ⟨hchoice, htcount, htraise⟩
  · rw [hdark, hlight]
    exact if_neg nofun
  · rw [hdark, if_pos hdrk]
    exact DarkUnit.openDark_spec s.dark h.temperature h.exposure

end Sys2Proof.Machine
end

section
/-! PROOFS. The samples of a block one after another: what each leaves of the sectors, their recency, the touched marks and the
counters, and from these what the block leaves (R73 to R90, R109, R110, R115). -/

namespace Sys2Proof.Machine

/-! ## One sample at its record -/

/-- The counter that a sample's end has (R90). -/
def Fate.counter : Fate → Option Counter
  | .collided => some .collided
  | .saturated => some .saturated
  | .rejected => some .rejected
  | .trail => none
  | .accepted => none

theorem counter_countFate (e : Fate) (s : State) (r : Counter) :
    ((countFate e s).counter r).toNat = min 4294967295 ((s.counter r).toNat + if e.counter = some r then 1 else 0) := by
  have hlt := (s.counter r).isLt
  cases e <;> simp only [countFate, Fate.counter, counter_count_toNat, Option.some.injEq, eq_comm (a := r), reduceCtorEq,
    if_false, Nat.add_zero] <;> omega

/-- A sector after a sample has come to its record at `pos` (R109, R115). -/
def Sector.sampled (x : Sector) (pos : Nat) (p : Fate × Rec) : Sector :=
  if p.1 = .collided then { x with held := true } else { x.write pos p.2 with held := true }

/-- From `s` to itself only a fold's work is done, and two folds' work is a fold's. -/
theorem State.foldsOnly_refl (s : State) : s.foldsOnly s :=
  ⟨rfl, rfl, rfl, rfl, rfl, rfl, rfl, rfl, rfl, rfl, rfl, rfl, rfl, rfl, rfl, rfl, rfl, rfl⟩

theorem State.foldsOnly_trans {s t v : State} (h : s.foldsOnly t) (h' : t.foldsOnly v) : s.foldsOnly v := by
  obtain ⟨h1, h2, h3, h4, h5, h6, h7, h8, h9, h10, h11, h12, h13, h14, h15, h16, h17, h18⟩ := h
  obtain ⟨k1, k2, k3, k4, k5, k6, k7, k8, k9, k10, k11, k12, k13, k14, k15, k16, k17, k18⟩ := h'
  exact ⟨k1.trans h1, k2.trans h2, k3.trans h3, k4.trans h4, by rw [k5, h5], k6.trans h6, k7.trans h7, k8.trans h8,
    k9.trans h9, k10.trans h10, k11.trans h11, k12.trans h12, k13.trans h13, k14.trans h14, k15.trans h15, k16.trans h16,
    k17.trans h17, k18.trans h18⟩

theorem State.foldsOnly_count (c : Counter) (k : Nat) (s : State) : s.foldsOnly (count c k s) :=
  ⟨rfl, rfl, rfl, rfl, rfl, rfl, rfl, rfl, rfl, rfl, rfl, rfl, rfl, rfl, rfl, rfl, rfl, rfl⟩

section Sampled

variable (s : State) (i pos : Nat) (x : Sector) (p : Fate × Rec)

/-- A sample that has come to its record, block by block. -/
theorem State.sampled_eq : s.sampled i pos x p = (countFate p.1 s).setCache { s.cache.setSector i (some (x.sampled pos p)) with
    recency := i :: s.cache.recency.filter fun k => decide (k ≠ i)
    touched := if p.1 = .collided then s.cache.touched else Table.set false s.cache.touched x.tile true } := by
  obtain ⟨e, r⟩ := p
  cases e <;> rfl

theorem State.sampled_sector (k : Nat) : (s.sampled i pos x p).cache.sector k =
    if k = i then some (x.sampled pos p) else s.cache.sector k := by
  rw [State.sampled_eq]
  exact Table.get_set none s.cache.sectors i (some (x.sampled pos p)) k

theorem State.sampled_recency : (s.sampled i pos x p).cache.recency = i :: s.cache.recency.filter fun k => decide (k ≠ i) := by
  rw [State.sampled_eq]
  rfl

theorem State.sampled_touched (tile : Nat) : (s.sampled i pos x p).cache.isTouched tile =
    (s.cache.isTouched tile || (decide (p.1 ≠ .collided) && decide (x.tile = tile))) := by
  rw [State.sampled_eq]
  show Table.get false (if p.1 = .collided then s.cache.touched else Table.set false s.cache.touched x.tile true) tile
    = (Table.get false s.cache.touched tile || _)
  by_cases hp : p.1 = .collided
  · simp [hp]
  · rw [if_neg hp, Table.get_set]
    by_cases ht : tile = x.tile
    · simp [hp, ht]
    · simp [ht, Ne.symm ht]

theorem State.sampled_counter (r : Counter) : ((s.sampled i pos x p).counter r).toNat =
    min 4294967295 ((s.counter r).toNat + if p.1.counter = some r then 1 else 0) := by
  rw [State.sampled_eq]
  exact counter_countFate p.1 s r

theorem State.foldsOnly_sampled : s.foldsOnly (s.sampled i pos x p) := by
  obtain ⟨e, r⟩ := p
  cases e <;>
    exact ⟨rfl, rfl, rfl, rfl, rfl, rfl, rfl, rfl, rfl, rfl, rfl, rfl, rfl, rfl, rfl, rfl, rfl, rfl⟩

/-- What the sector held before the sample does not show in what it leaves but through `x`. -/
theorem State.sampled_setSector (z : Option Sector) :
    (s.setCache (s.cache.setSector i z)).sampled i pos x p = s.sampled i pos x p := by
  obtain ⟨e, r⟩ := p
  cases e <;> simp [State.sampled, TileCache.setSector, Table.set_set, count, State.setRep, State.setCache, State.counter]

end Sampled

end Sys2Proof.Machine
end

section
/-! PROOFS. A block's samples by a plan: where each goes, what it makes of a record, and what the columns up to one leave. -/

namespace Sys2Proof.Machine

/-! ## The plan of a block -/

/-- Where the samples of a block go: the columns from `first` on are folded; a column's place is the sector and tile position
of its record, none for a sample that reaches no record, hot or spilled; `absorb` is what it makes of a record. -/
structure SamplePlan where
  first : Nat
  hot : Nat → Bool
  place : Nat → Option (Nat × Nat)
  absorb : Nat → Rec → Fate × Rec

namespace SamplePlan

variable (P : SamplePlan) (s : State) (n : Nat)

/-- The record that the sample of a column reaches, none before the first column. -/
def reach (col : Nat) : Option (Nat × Nat) := if P.first ≤ col then P.place col else none

/-- How many of the samples before column `n` satisfy a test. -/
def samples (test : Nat → Bool) : Nat := (List.range n).countP fun col => decide (P.first ≤ col) && test col

theorem samples_none : P.samples n (fun _ => false) = 0 := by simp [samples]

theorem samples_zero (test : Nat → Bool) : P.samples 0 test = 0 := rfl

theorem samples_succ (test : Nat → Bool) :
    P.samples (n + 1) test = P.samples n test + if P.first ≤ n ∧ test n = true then 1 else 0 := by
  simp [samples, List.range_succ, List.countP_append]

/-- How the sample of a column ends, its record having seen those before it. -/
def fate (col : Nat) : Option Fate :=
  (P.reach col).bind fun p => (s.cache.sector p.1).map fun x =>
    (P.absorb col (recAfter P.reach P.absorb p (x.rec_ p.2) col)).1

/-- The sample of a column writes its record. -/
def wrote (col : Nat) : Bool := (P.fate s col).any fun e => decide (e ≠ .collided)

/-- The sample of a column comes to a record of sector `i`. -/
def comesTo (i col : Nat) : Bool := (P.reach col).any fun p => decide (p.1 = i)

/-- The sample of a column writes a record of a tile. -/
def touches (tile col : Nat) : Bool :=
  P.wrote s col && (P.reach col).any fun p => (s.cache.sector p.1).any fun x => decide (x.tile = tile)

/-- The counter that the sample of a column makes rise (R76, R79, R90). -/
def counts (col : Nat) : Option Counter :=
  match P.reach col with
  | some _ => (P.fate s col).bind Fate.counter
  | none => if P.hot col then some .hotSkips else some .spilled

/-- The order of the sectors after the samples before column `n` (R109). -/
def order (n : Nat) (l : List Nat) : List Nat :=
  (List.range n).foldl (fun order col => match P.reach col with
    | some p => p.1 :: order.filter fun k => decide (k ≠ p.1)
    | none => order) l

theorem order_succ (l : List Nat) : P.order (n + 1) l = match P.reach n with
    | some p => p.1 :: (P.order n l).filter fun k => decide (k ≠ p.1)
    | none => P.order n l := by
  rw [order, List.range_succ, List.foldl_append]
  rfl

theorem recAfter_succ (p : Nat × Nat) (r : Rec) : recAfter P.reach P.absorb p r (n + 1) =
    if P.reach n = some p then (P.absorb n (recAfter P.reach P.absorb p r n)).2 else recAfter P.reach P.absorb p r n := by
  rw [recAfter, List.range_succ, List.foldl_append]
  rfl

/-- The sample of a column, as the plan has it. -/
def step (col : Nat) (v : State) : State :=
  match P.reach col with
  | some (i, pos) =>
    match v.cache.sector i with
    | some y => v.sampled i pos y (P.absorb col (y.rec_ pos))
    | none => v
  | none => if P.first ≤ col then count (if P.hot col then .hotSkips else .spilled) 1 v else v

/-- The samples before column `n`, one after another. -/
def run : Nat → State → State
  | 0, v => v
  | n + 1, v => P.step n (run n v)

end SamplePlan

/-! ## What the samples before a column leave -/

/-- `t` is what the samples of the plan before column `n` leave of `s`. -/
structure SamplePlan.Leaves (P : SamplePlan) (s : State) (n : Nat) (t : State) : Prop where
  unreached : ∀ i, (∀ col p, col < n → P.reach col = some p → p.1 ≠ i) → t.cache.sector i = s.cache.sector i
  sector : ∀ i x, s.cache.sector i = some x → ∃ y, t.cache.sector i = some y
    ∧ y.tile = x.tile ∧ y.held = (x.held || decide (0 < P.samples n (P.comesTo i))) ∧ y.failedOnce = x.failedOnce
    ∧ y.fresh = x.fresh
    ∧ y.state = (if P.samples n (fun col => P.comesTo i col && P.wrote s col) = 0 then x.state else .dirty)
    ∧ ∀ pos, y.rec_ pos = recAfter P.reach P.absorb (i, pos) (x.rec_ pos) n
  recency : t.cache.recency = P.order n s.cache.recency
  touched : ∀ tile, t.cache.isTouched tile = (s.cache.isTouched tile || decide (0 < P.samples n (P.touches s tile)))
  counter : ∀ r, (t.counter r).toNat =
    min 4294967295 ((s.counter r).toNat + P.samples n fun col => decide (P.counts s col = some r))
  frame : s.foldsOnly t

namespace SamplePlan

variable {P : SamplePlan} {s : State} {n : Nat} {t : State}

/-- Before the first sample nothing has changed. -/
theorem leaves_zero : P.Leaves s 0 s where
  unreached _ _ := rfl
  sector i x hx := ⟨x, hx, rfl, (Bool.or_false _).symm, rfl, rfl, rfl, fun _ => rfl⟩
  recency := rfl
  touched _ := (Bool.or_false _).symm
  counter r := by
    have := (s.counter r).isLt
    rw [samples_zero]
    omega
  frame := s.foldsOnly_refl

/-- A test that the sample of a column fails counts no more with it. -/
theorem samples_succ_false {test : Nat → Bool} (h : test n = false) : P.samples (n + 1) test = P.samples n test := by
  rw [samples_succ, if_neg (by simp [h]), Nat.add_zero]

theorem samples_succ_true {test : Nat → Bool} (hn : P.first ≤ n) (h : test n = true) :
    P.samples (n + 1) test = P.samples n test + 1 := by
  rw [samples_succ, if_pos ⟨hn, h⟩]

theorem step_none (hr : P.reach n = none) (t : State) : P.step n t =
    if P.first ≤ n then count (if P.hot n then .hotSkips else .spilled) 1 t else t := by
  rw [step, hr]

/-- A sample that reaches no record changes a counter at most. -/
theorem Leaves.step_none (h : P.Leaves s n t) (hr : P.reach n = none) : P.Leaves s (n + 1) (P.step n t) := by
  have hcome (i : Nat) : P.comesTo i n = false := by rw [comesTo, hr]; rfl
  have hwrote : P.wrote s n = false := by rw [wrote, fate, hr]; rfl
  have hcounts : P.counts s n = if P.hot n then some .hotSkips else some .spilled := by rw [counts, hr]
  have hcache : (P.step n t).cache = t.cache := by
    rw [SamplePlan.step_none hr]
    split <;> rfl
  refine ⟨fun i hi => ?_, fun i x hx => ?_, ?_, fun tile => ?_, fun r => ?_, State.foldsOnly_trans h.frame ?_⟩
  · rw [hcache]
    exact h.unreached i fun col p hcol => hi col p (by omega)
  · obtain ⟨y, hy, htile, hheld, honce, hfresh, hstate, hrecs⟩ := h.sector i x hx
    refine ⟨y, hcache ▸ hy, htile, ?_, honce, hfresh, ?_, fun pos => ?_⟩
    · rw [samples_succ_false (hcome i), hheld]
    · rw [samples_succ_false (by rw [hcome]; rfl), hstate]
    · rw [recAfter_succ, if_neg (by rw [hr]; nofun), hrecs]
  · rw [hcache, order_succ, hr, h.recency]
  · rw [hcache, samples_succ_false (by rw [touches, hwrote]; rfl), h.touched]
  · have hc := h.counter r
    rw [SamplePlan.step_none hr, samples_succ, hcounts]
    by_cases hn : P.first ≤ n
    · rw [if_pos hn, counter_count_toNat]
      cases P.hot n <;> simp only [hn, true_and, decide_eq_true_eq, Bool.false_eq_true, if_false, if_true, Option.some.injEq,
        eq_comm (a := r)] <;> omega
    · rw [if_neg hn, if_neg fun hh => hn hh.1]
      exact hc
  · rw [SamplePlan.step_none hr]
    split
    · exact State.foldsOnly_count _ _ _
    · exact State.foldsOnly_refl _

/-- How the sample of a column ends at a record of a sector that `s` has. -/
theorem fate_some {i pos : Nat} {x : Sector} (hr : P.reach n = some (i, pos)) (hx : s.cache.sector i = some x) :
    P.fate s n = some (P.absorb n (recAfter P.reach P.absorb (i, pos) (x.rec_ pos) n)).1 := by
  rw [fate, hr]
  simp only [Option.bind_some, hx, Option.map_some]

/-- The contents of a sector after a sample. -/
theorem sampled_fields (y : Sector) (pos : Nat) (e : Fate × Rec) :
    (y.sampled pos e).tile = y.tile ∧ (y.sampled pos e).held = true ∧ (y.sampled pos e).failedOnce = y.failedOnce
    ∧ (y.sampled pos e).fresh = y.fresh ∧ (y.sampled pos e).state = (if e.1 = .collided then y.state else .dirty)
    ∧ ∀ q, (y.sampled pos e).rec_ q = if e.1 ≠ .collided ∧ q = pos then e.2 else y.rec_ q := by
  by_cases hc : e.1 = .collided
  · have hy : y.sampled pos e = { y with held := true } := if_pos hc
    rw [hy, if_pos hc]
    exact ⟨rfl, rfl, rfl, rfl, rfl, fun q => (if_neg fun h => h.1 hc).symm⟩
  · have hy : y.sampled pos e = { y.write pos e.2 with held := true } := if_neg hc
    rw [hy, if_neg hc]
    refine ⟨rfl, rfl, rfl, rfl, rfl, fun q => ?_⟩
    rw [Sector.rec_]
    simp only [Sector.write, Table.get_set, hc, not_false_eq_true, ne_eq, true_and]
    rfl

/-- A sample that reaches a record changes its sector, makes it most recent, and is counted by its end. -/
theorem Leaves.step_some (h : P.Leaves s n t) {i pos : Nat} {x : Sector} (hr : P.reach n = some (i, pos))
    (hx : s.cache.sector i = some x) (hcol : ∀ r, (P.absorb n r).1 = .collided → (P.absorb n r).2 = r) :
    P.Leaves s (n + 1) (P.step n t) := by
  have hn : P.first ≤ n := by by_contra hn; rw [reach, if_neg hn] at hr; cases hr
  obtain ⟨y, hy, htile, hheld, honce, hfresh, hstate, hrecs⟩ := h.sector i x hx
  have hstep : P.step n t = t.sampled i pos y (P.absorb n (y.rec_ pos)) := by
    rw [step, hr]
    simp only [hy]
  have hfate : P.fate s n = some (P.absorb n (y.rec_ pos)).1 := by rw [fate_some hr hx, hrecs]
  have hcol := hcol (y.rec_ pos)
  have hrec (p : Nat × Nat) (r : Rec) : recAfter P.reach P.absorb p r (n + 1) = if (i, pos) = p then
      (P.absorb n (recAfter P.reach P.absorb p r n)).2 else recAfter P.reach P.absorb p r n := by
    rw [recAfter_succ, hr]
    simp only [Option.some.injEq]
  have hpos := hrecs pos
  generalize he : P.absorb n (y.rec_ pos) = e at hstep hfate hcol
  have hcome (k : Nat) : P.comesTo k n = decide (i = k) := by rw [comesTo, hr]; rfl
  have hwrote : P.wrote s n = decide (e.1 ≠ .collided) := by rw [wrote, hfate]; rfl
  have hcounts : P.counts s n = e.1.counter := by rw [counts, hr, hfate]; rfl
  have htouches (tile : Nat) : P.touches s tile n = (decide (e.1 ≠ .collided) && decide (x.tile = tile)) := by
    rw [touches, hwrote, hr]
    simp only [Option.any_some, hx]
  obtain ⟨ftile, fheld, fonce, ffresh, fstate, frec⟩ := sampled_fields y pos e
  have hsector (k : Nat) := t.sampled_sector i pos y e k
  rw [hstep]
  refine ⟨fun k hk => ?_, fun k z hz => ?_, ?_, fun tile => ?_, fun r => ?_,
    State.foldsOnly_trans h.frame (t.foldsOnly_sampled i pos y e)⟩
  · have hne : k ≠ i := fun hki => hk n _ (by omega) hr hki.symm
    rw [hsector, if_neg hne]
    exact h.unreached k fun col p hlt => hk col p (by omega)
  · by_cases hki : k = i
    · subst hki
      obtain rfl : z = x := Option.some.inj (hz.symm.trans hx)
      refine ⟨y.sampled pos e, (hsector k).trans (if_pos rfl), ftile.trans htile, ?_, fonce.trans honce, ffresh.trans hfresh, ?_,
        fun q => ?_⟩
      · rw [fheld, samples_succ_true hn (by rw [hcome]; simp)]
        simp
      · rw [fstate, hstate]
        by_cases hc : e.1 = .collided
        · rw [if_pos hc, samples_succ_false (by rw [hwrote]; simp [hc])]
        · rw [if_neg hc, samples_succ_true hn (by rw [hwrote, hcome]; simp [hc]), if_neg (by omega)]
      · rw [frec, hrec]
        by_cases hq : pos = q
        · subst hq
          rw [if_pos (rfl : (k, pos) = (k, pos)), ← hpos, he]
          by_cases hc : e.1 = .collided
          · rw [if_neg fun hh => hh.1 hc, hcol hc]
          · rw [if_pos ⟨hc, rfl⟩]
        · rw [if_neg fun hh => hq hh.2.symm, if_neg fun hh => hq (Prod.mk.inj hh).2, hrecs]
    · obtain ⟨y', hy', htile', hheld', honce', hfresh', hstate', hrecs'⟩ := h.sector k z hz
      have hck : P.comesTo k n = false := by rw [hcome]; simpa using Ne.symm hki
      refine ⟨y', (hsector k).trans ((if_neg hki).trans hy'), htile', ?_, honce', hfresh', ?_, fun q => ?_⟩
      · rw [samples_succ_false hck, hheld']
      · rw [samples_succ_false (by rw [hck]; rfl), hstate']
      · rw [hrec, if_neg fun hh => hki (Prod.mk.inj hh).1.symm, hrecs']
  · rw [t.sampled_recency, order_succ, hr, h.recency]
  · rw [t.sampled_touched, h.touched, htile, Bool.or_assoc]
    congr 1
    by_cases ht : e.1 ≠ .collided ∧ x.tile = tile
    · rw [samples_succ_true hn (by rw [htouches]; simpa using ht)]
      simp [ht]
    · rw [samples_succ_false (by rw [htouches]; simpa using ht)]
      have : (decide (e.1 ≠ .collided) && decide (x.tile = tile)) = false := by simpa using ht
      rw [this, Bool.or_false]
  · have hc := h.counter r
    rw [t.sampled_counter, samples_succ, hcounts]
    simp only [hn, true_and, decide_eq_true_eq]
    omega

end SamplePlan

end Sys2Proof.Machine
end

section
/-! PROOFS. The fold of a block is its plan, sample by sample; the fold of a TRACK block whose tiles sectors hold (R73 to R90,
R100 to R103). -/

namespace Sys2Proof.Machine

/-! ## What a sample sees of the state -/

/-- The dark value of a column. -/
def Fold.darkAt (g : Fold) (col : Nat) : DarkValue := g.darks.getD col (.level 0)

/-- The tile of the block. -/
def Fold.tileIn (g : Fold) (f : Frozen) : Nat := g.row / 32 * (f.width.toNat / 32) + g.block

/-- What the sample of a column makes of a record. -/
def State.absorbs (u : State) (g : Fold) (col : Nat) (r : Rec) : Fate × Rec :=
  r.absorb u.cmd.snap (u.classAt (g.tileIn u.cmd.snap)) g.index (g.values.getD col 0)
    (match g.darkAt col with
     | .level d => d
     | .hot => 0)

/-- A sample that collides leaves its record as it was (R81). -/
theorem Rec.absorb_collided {f : Frozen} {cls : TileClass} {k raw dark : BitVec 16} {r : Rec}
    (h : (r.absorb f cls k raw dark).1 = .collided) : (r.absorb f cls k raw dark).2 = r := by
  unfold Rec.absorb at h ⊢
  split
  · rfl
  · next hk =>
    rw [if_neg hk] at h
    dsimp only at h
    split at h
    · cases h
    · split at h
      · cases h
      · unfold Rec.clipped at h
        split at h
        · cases h
        · split at h <;> cases h

section Congr

variable {u v : State} (h : u.foldsOnly v)
include h

theorem State.foldsOnly_cmd : v.cmd = u.cmd := by
  obtain ⟨-, -, -, -, -, -, -, -, hcmd, -⟩ := h
  exact hcmd

theorem State.foldsOnly_classAt (tile : Nat) : v.classAt tile = u.classAt tile := by
  have hcmd := State.foldsOnly_cmd h
  obtain ⟨-, -, -, -, -, -, -, -, -, -, -, hclasses, -⟩ := h
  rw [State.classAt, State.classAt, State.classOf, State.classOf, hcmd, hclasses]

theorem State.foldsOnly_sends (g : Fold) (col : Nat) : v.sends g col = u.sends g col := by
  have hcmd := State.foldsOnly_cmd h
  have hclass := State.foldsOnly_classAt h
  obtain ⟨-, -, -, -, -, -, -, -, -, -, -, hclasses, -⟩ := h
  have hclassOf : v.classOf = u.classOf := by
    funext tile
    rw [State.classOf, State.classOf, hclasses]
  have hclassAt : v.classAt = u.classAt := funext hclass
  unfold State.sends
  rw [hcmd, hclassOf, hclassAt]

theorem State.foldsOnly_absorbs (g : Fold) : v.absorbs g = u.absorbs g := by
  funext col r
  simp only [State.absorbs, State.foldsOnly_cmd h, State.foldsOnly_classAt h]

end Congr

/-- What the next sample comes to is what `foldSample` answers. -/
theorem foldSample_leadsTo {g : Fold} (hcol : g.column < 32) (u : State) :
    u.sampleLeadsTo g (fun t => foldSample g u = .ended t) (fun t => foldSample g u = .waits t) :=
  State.sampleLeadsTo_of hcol (fun _ h => h) (fun _ h => h)

section Samples

variable {u v : State} {g : Fold} {i pos tile : Nat} {x : Sector}

/-- A hot pixel is skipped (R76). -/
theorem foldSample_hot (hcol : g.column < 32) (hc : u.classAt (g.tileIn u.cmd.snap) ≠ .exclude)
    (hd : g.darkAt g.column = .hot) : foldSample g u = .ended (count .hotSkips 1 u) := by
  obtain ⟨-, hhot, -⟩ := foldSample_leadsTo hcol u
  exact hhot hc hd

/-- A sample that is sent nowhere is spilled (R79, R102, R103). -/
theorem foldSample_spilled (hcol : g.column < 32) (hc : u.classAt (g.tileIn u.cmd.snap) ≠ .exclude)
    (hd : g.darkAt g.column ≠ .hot) (hs : u.sends g g.column = none) : foldSample g u = .ended (count .spilled 1 u) := by
  cases hl : g.darkAt g.column with
  | hot => exact absurd hl hd
  | level d =>
    obtain ⟨-, -, hlevel⟩ := foldSample_leadsTo hcol u
    obtain ⟨hnone, -⟩ := hlevel hc d hl
    exact hnone hs

/-- A sample that a sector serves comes to its record (R81 to R88). -/
theorem foldSample_served (hcol : g.column < 32) (hc : u.classAt (g.tileIn u.cmd.snap) ≠ .exclude)
    (hd : g.darkAt g.column ≠ .hot) (hs : u.sends g g.column = some (tile, pos)) (hserves : u.servesFold i tile x) :
    foldSample g u = .ended (u.sampled i pos x (u.absorbs g g.column (x.rec_ pos))) := by
  cases hl : g.darkAt g.column with
  | hot => exact absurd hl hd
  | level d =>
    obtain ⟨-, -, hlevel⟩ := foldSample_leadsTo hcol u
    obtain ⟨-, hsent⟩ := hlevel hc d hl
    obtain ⟨hserved, -⟩ := hsent tile pos hs
    rw [State.absorbs, hl]
    exact hserved i x hserves

end Samples

/-! ## The plan of a block in a state -/

/-- The plan of a block whose samples have the places given. -/
def State.planOf (u : State) (g : Fold) (place : Nat → Option (Nat × Nat)) : SamplePlan :=
  ⟨g.column, fun col => decide (g.darkAt col = .hot), place, u.absorbs g⟩

/-- The places given are those of the records the samples are sent to, in sectors that hold their tiles CLEAN or DIRTY; a
sample without a place is hot or sent nowhere. -/
def State.placesFold (u : State) (g : Fold) (place : Nat → Option (Nat × Nat)) : Prop :=
  ∀ col, g.column ≤ col → col < 32 →
    match (if g.darkAt col = .hot then none else u.sends g col) with
    | some (dest, pos) =>
      ∃ i x, place col = some (i, pos) ∧ u.cache.keeps i dest x ∧ (x.state = .clean ∨ x.state = .dirty)
    | none => place col = none

section Planned

variable {P : SamplePlan} {u t : State} {g : Fold} {place : Nat → Option (Nat × Nat)} {n : Nat}

/-- The columns before the first change nothing. -/
theorem SamplePlan.run_before (P : SamplePlan) (u : State) (h : n ≤ P.first) : P.run n u = u := by
  induction n with
  | zero => rfl
  | succ n ih =>
    have hn : ¬P.first ≤ n := by omega
    rw [SamplePlan.run, ih (by omega), SamplePlan.step_none (by rw [SamplePlan.reach, if_neg hn]), if_neg hn]

/-- A plan whose samples reach sectors that `u` has leaves what `Leaves` says. -/
theorem SamplePlan.leaves_run (hs : ∀ col p, col < n → P.reach col = some p → ∃ x, u.cache.sector p.1 = some x)
    (hcol : ∀ col r, (P.absorb col r).1 = .collided → (P.absorb col r).2 = r) : P.Leaves u n (P.run n u) := by
  induction n with
  | zero => exact SamplePlan.leaves_zero
  | succ n ih =>
    have ih := ih fun col p hlt => hs col p (by omega)
    cases hr : P.reach n with
    | none => exact ih.step_none hr
    | some p =>
      obtain ⟨x, hx⟩ := hs n p (by omega) hr
      exact ih.step_some hr hx (hcol n)

/-- The samples of a plan reach sectors that the state has. -/
theorem State.placesFold_sector (h : u.placesFold g place) {col : Nat} {p : Nat × Nat} (hlt : col < 32)
    (hr : (u.planOf g place).reach col = some p) : ∃ x, u.cache.sector p.1 = some x := by
  have hf : g.column ≤ col := by
    by_contra hf
    rw [SamplePlan.reach, if_neg (show ¬(u.planOf g place).first ≤ col from hf)] at hr
    cases hr
  have hp : place col = some p := by rwa [SamplePlan.reach, if_pos (show (u.planOf g place).first ≤ col from hf)] at hr
  have hc := h col hf hlt
  split at hc
  · obtain ⟨i, x, hi, ⟨-, hx, -⟩, -⟩ := hc
    obtain rfl := Option.some.inj (hp.symm.trans hi)
    exact ⟨x, hx⟩
  · rw [hc] at hp
    cases hp

/-- The samples before column `n` of a block whose records sectors hold. -/
theorem State.placesFold_leaves (h : u.placesFold g place) (hn : n ≤ 32) :
    (u.planOf g place).Leaves u n ((u.planOf g place).run n u) :=
  SamplePlan.leaves_run (fun _ _ hlt hr => State.placesFold_sector h (by omega) hr) fun _ _ => Rec.absorb_collided

/-- A sector that holds a tile keeps it, CLEAN or DIRTY, while samples come to it. -/
theorem SamplePlan.Leaves.keeps (h : P.Leaves u n t) (hu : ∀ i, u.cache.sector i = none → t.cache.sector i = none)
    {i tile : Nat} {x : Sector} (hk : u.cache.keeps i tile x) (hx : x.state = .clean ∨ x.state = .dirty) :
    ∃ y, t.cache.sector i = some y ∧ t.cache.keeps i tile y ∧ (y.state = .clean ∨ y.state = .dirty) := by
  obtain ⟨hi, hsec, htile, hlow⟩ := hk
  obtain ⟨y, hy, hytile, -, -, -, hstate, -⟩ := h.sector i x hsec
  refine ⟨y, hy, ⟨hi, hy, hytile.trans htile, fun k z hlt hz => ?_⟩, ?_⟩
  · cases hk : u.cache.sector k with
    | none => rw [hu k hk] at hz; cases hz
    | some w =>
      obtain ⟨z', hz', hztile, -⟩ := h.sector k w hk
      obtain rfl := Option.some.inj (hz.symm.trans hz')
      rw [hztile]
      exact hlow k w hlt hk
  · rw [hstate]
    split
    · exact hx
    · exact .inr rfl

/-- A sector that is FREE is reached by no sample of the block. -/
theorem State.placesFold_free (h : u.placesFold g place) (hn : n ≤ 32) {i : Nat} (hi : u.cache.sector i = none) :
    ((u.planOf g place).run n u).cache.sector i = none := by
  rw [(State.placesFold_leaves h hn).unreached i fun col p hlt hr hp => ?_, hi]
  obtain ⟨x, hx⟩ := State.placesFold_sector h (by omega) hr
  rw [hp, hi] at hx
  cases hx

/-- The fold's next sample is the plan's. -/
theorem foldSample_planned (h : u.placesFold g place) (hc : u.classAt (g.tileIn u.cmd.snap) ≠ .exclude)
    (hf : g.column ≤ n) (hn : n < 32) : foldSample { g with column := n } ((u.planOf g place).run n u)
      = .ended ((u.planOf g place).run (n + 1) u) := by
  have hleaves := State.placesFold_leaves h (Nat.le_of_lt hn)
  have hfree (i : Nat) (hi : u.cache.sector i = none) := State.placesFold_free h (Nat.le_of_lt hn) hi
  have hreach : (u.planOf g place).reach n = place n := if_pos hf
  rw [SamplePlan.run]
  generalize (u.planOf g place).run n u = v at hleaves hfree
  have hcv : v.classAt (g.tileIn v.cmd.snap) ≠ .exclude := by
    rw [State.foldsOnly_classAt hleaves.frame, State.foldsOnly_cmd hleaves.frame]
    exact hc
  have hsends := State.foldsOnly_sends hleaves.frame { g with column := n } n
  have hp := h n hf hn
  by_cases hd : g.darkAt n = .hot
  · rw [if_pos hd] at hp
    rw [SamplePlan.step_none (hreach.trans hp), if_pos (show (u.planOf g place).first ≤ n from hf),
      show (u.planOf g place).hot n = true from decide_eq_true hd]
    exact foldSample_hot (g := { g with column := n }) hn hcv hd
  · rw [if_neg hd] at hp
    split at hp
    · next dest pos hs =>
      obtain ⟨i, x, hplace, hkeeps, hstate⟩ := hp
      obtain ⟨y, hy, hserves⟩ := hleaves.keeps hfree hkeeps hstate
      have hstep : (u.planOf g place).step n v = v.sampled i pos y (u.absorbs g n (y.rec_ pos)) := by
        rw [SamplePlan.step, hreach, hplace]
        simp only [hy]
        rfl
      rw [hstep, ← State.foldsOnly_absorbs hleaves.frame]
      exact foldSample_served (g := { g with column := n }) hn hcv hd (hsends.trans hs) (.inl hserves)
    · next hs =>
      rw [SamplePlan.step_none (hreach.trans hp), if_pos (show (u.planOf g place).first ≤ n from hf),
        show (u.planOf g place).hot n = false from decide_eq_false hd]
      exact foldSample_spilled (g := { g with column := n }) hn hcv hd (hsends.trans hs)

/-- The fold of a block, from a column of the plan on, is the plan's. -/
theorem foldSamples_planned (h : u.placesFold g place) (hc : u.classAt (g.tileIn u.cmd.snap) ≠ .exclude) (k : Nat) :
    ∀ col, g.column ≤ col → col + k = 32 →
      foldSamples k { g with column := col } ((u.planOf g place).run col u) = ((u.planOf g place).run 32 u, none) := by
  induction k with
  | zero => rintro col - rfl; rfl
  | succ k ih =>
    intro col hf hk
    rw [foldSamples, foldSample_planned h hc hf (by omega)]
    exact ih (col + 1) (by omega) (by omega)

/-- The fold of a block whose records sectors hold. -/
theorem runFold_planned (h : u.placesFold g place) (hc : u.classAt (g.tileIn u.cmd.snap) ≠ .exclude) :
    runFold g u = ((u.planOf g place).run 32 u, none) := by
  have hbefore := (u.planOf g place).run_before u (n := g.column) (Nat.le_refl _)
  rw [runFold]
  rcases Nat.lt_or_ge 32 g.column with hlt | hge
  · rw [(u.planOf g place).run_before u (n := 32) (Nat.le_of_lt hlt), Nat.sub_eq_zero_of_le (Nat.le_of_lt hlt)]
    rfl
  · have hrun := foldSamples_planned h hc (32 - g.column) g.column (Nat.le_refl _) (by omega)
    rwa [hbefore] at hrun

end Planned

/-! ## A TRACK block whose tiles sectors hold -/

section Turned

variable {P : SamplePlan} {s t : State}

/-- The counter of a sample by its counter's own test: a hot pixel, one spilled, or the end it has. -/
def SamplePlan.countTest (P : SamplePlan) (s : State) (r : Counter) (col : Nat) : Bool :=
  match r with
  | .hotSkips => P.hot col
  | .spilled => (P.place col).isNone && !P.hot col
  | .collided => decide (P.fate s col = some .collided)
  | .saturated => decide (P.fate s col = some .saturated)
  | .rejected => decide (P.fate s col = some .rejected)
  | _ => false

theorem SamplePlan.samples_congr {test test' : Nat → Bool} (h : ∀ col, P.first ≤ col → col < 32 → test col = test' col) :
    P.samples 32 test = P.samples 32 test' := by
  refine List.countP_congr fun col hcol => ?_
  by_cases hf : P.first ≤ col
  · rw [h col hf (List.mem_range.mp hcol)]
  · simp [hf]

/-- A hot pixel has no place, one that has a place is in a sector that the state has. -/
def SamplePlan.placed (P : SamplePlan) (s : State) : Prop := ∀ col, P.first ≤ col → col < 32 →
  P.place col = none ∨ P.hot col = false ∧ ∃ p x, P.place col = some p ∧ s.cache.sector p.1 = some x

theorem SamplePlan.counts_eq (h : P.placed s) (r : Counter) {col : Nat} (hf : P.first ≤ col) (hlt : col < 32) :
    decide (P.counts s col = some r) = P.countTest s r col := by
  have hreach : P.reach col = P.place col := if_pos hf
  rcases h col hf hlt with hp | ⟨hh, ⟨i, pos⟩, x, hp, hx⟩
  · have hfate : P.fate s col = none := by rw [SamplePlan.fate, hreach, hp]; rfl
    have hcounts : P.counts s col = if P.hot col then some .hotSkips else some .spilled := by
      rw [SamplePlan.counts, hreach, hp]
    rw [hcounts]
    cases hhot : P.hot col <;> cases r <;> simp [SamplePlan.countTest, hfate, hp, hhot]
  · have hfate := SamplePlan.fate_some (hreach.trans hp) hx
    have hcounts : P.counts s col = (P.fate s col).bind Fate.counter := by rw [SamplePlan.counts, hreach, hp]
    rw [hcounts, hfate]
    generalize (P.absorb col (recAfter P.reach P.absorb (i, pos) (x.rec_ pos) col)).1 = e at hfate
    cases e <;> cases r <;> simp [SamplePlan.countTest, hfate, hp, hh, Fate.counter]

/-- What a TRACK block leaves is what its plan leaves. -/
theorem SamplePlan.Leaves.turnFolded (h : P.Leaves s 32 t) (hp : P.placed s) :
    s.turnFolded t P.first P.hot P.place P.absorb := by
  refine ⟨fun i hi => ?_, h.sector, h.recency, h.touched, fun r => ?_, h.frame⟩
  · rw [h.unreached i fun col p hlt hr hpi => ?_, hi]
    by_cases hf : P.first ≤ col
    · rw [SamplePlan.reach, if_pos hf] at hr
      rcases hp col hf hlt with hn | ⟨-, q, x, hq, hx⟩
      · rw [hn] at hr; cases hr
      · obtain rfl := Option.some.inj (hr.symm.trans hq)
        rw [hpi, hi] at hx
        cases hx
    · rw [SamplePlan.reach, if_neg hf] at hr
      cases hr
  · have hzero : P.samples 32 (fun _ => false) = 0 := P.samples_none 32
    have htest : P.samples 32 (fun col => decide (P.counts s col = some r)) = P.samples 32 fun col => P.countTest s r col :=
      SamplePlan.samples_congr fun col hf hlt => SamplePlan.counts_eq hp r hf hlt
    rw [h.counter r, htest]
    cases r <;> simp only [SamplePlan.countTest, hzero] <;> rfl

/-- The samples of a block whose records sectors hold are placed. -/
theorem State.placesFold_placed {u : State} {g : Fold} {place : Nat → Option (Nat × Nat)} (h : u.placesFold g place) :
    (u.planOf g place).placed u := by
  intro col hf hlt
  have hp := h col hf hlt
  by_cases hd : g.darkAt col = .hot
  · rw [if_pos hd] at hp
    exact .inl hp
  · rw [if_neg hd] at hp
    split at hp
    · obtain ⟨i, x, hplace, ⟨-, hx, -⟩, -⟩ := hp
      exact .inr ⟨decide_eq_false hd, (i, _), x, hplace, hx⟩
    · exact .inl hp

end Turned

end Sys2Proof.Machine
end

section
/-! PROOFS. The fold of a block whose samples reach their own tile (GROUND, TRAIL, any tile of a DARK run, TRACK under no turn)
(R73 to R90, R100). -/

namespace Sys2Proof.Machine

/-! ## No turn (R100) -/

theorem awayShift_mul (a : Nat) : awayShift ((a : Int) * 2 ^ 34) 34 = a := by
  have hnat : ((a : Int) * 2 ^ 34).natAbs = a * 2 ^ 34 := by omega
  unfold awayShift
  rw [hnat]
  dsimp only
  rw [if_neg (by omega)]
  omega

/-- Under no turn a source pixel of the image is its own destination. -/
theorem destination_self (f : Frozen) {x y : Nat} (hx : x < f.width.toNat) (hy : y < f.height.toNat) :
    destination f (2 ^ 30) 0 x y = some (x, y) := by
  have ha (a b : Nat) : turnedA f (2 ^ 30) 0 a b = (a : Int) * 2 ^ 34 := by unfold turnedA; ring
  have hb (a b : Nat) : turnedB f (2 ^ 30) 0 a b = (b : Int) * 2 ^ 34 := by unfold turnedB; ring
  unfold destination
  rw [ha, hb, awayShift_mul, awayShift_mul]
  dsimp only
  rw [if_pos (by omega)]
  simp only [Int.toNat_natCast, Option.some.injEq, Prod.mk.injEq]
  omega

/-- The samples of the block reach their own records: no class turns them, or TRACK under no turn. -/
def State.straight (u : State) (g : Fold) : Prop :=
  u.classAt (g.tileIn u.cmd.snap) = .ground ∨ u.classAt (g.tileIn u.cmd.snap) = .trail
  ∨ (u.classAt (g.tileIn u.cmd.snap) = .track ∧ g.c = 2 ^ 30 ∧ g.s = 0
    ∧ 32 * g.block + 32 ≤ u.cmd.snap.width.toNat ∧ g.row < u.cmd.snap.height.toNat)

theorem State.straight_class {u : State} {g : Fold} (h : u.straight g) : u.classAt (g.tileIn u.cmd.snap) ≠ .exclude := by
  rcases h with h | h | ⟨h, -⟩ <;> rw [h] <;> nofun

theorem State.sends_straight {u : State} {g : Fold} (h : u.straight g) {col : Nat} (hcol : col < 32) :
    u.sends g col = some (g.tileIn u.cmd.snap, g.row % 32 * 32 + col) := by
  unfold State.straight Fold.tileIn at h
  unfold State.sends Fold.tileIn
  rcases h with h | h | ⟨h, hc, hs, hw, hh⟩
  · simp only [h, reduceCtorEq, if_false]
  · simp only [h, reduceCtorEq, if_false]
  · have hclass : u.classOf (g.row / 32 * (u.cmd.snap.width.toNat / 32) + g.block) = .track := by
      unfold State.classAt at h
      split at h
      · cases h
      · exact h
    have hx : (32 * g.block + col) / 32 = g.block := by omega
    have hm : (32 * g.block + col) % 32 = col := by omega
    simp only [h, if_true, hc, hs, destination_self u.cmd.snap (x := 32 * g.block + col) (by omega) hh, hx, hm, hclass]

/-! ## A plan that reaches one sector -/

namespace SamplePlan

variable {P : SamplePlan} {n : Nat}

/-- A record that one column reaches at most, after the columns before `n`. -/
theorem recAfter_once {p : Nat × Nat} {col : Nat} (h : ∀ k, P.reach k = some p → k = col) (r : Rec) (n : Nat) :
    recAfter P.reach P.absorb p r n = if col < n ∧ P.reach col = some p then (P.absorb col r).2 else r := by
  induction n with
  | zero => rfl
  | succ n ih =>
    rw [recAfter_succ, ih]
    by_cases hn : P.reach n = some p
    · obtain rfl := h n hn
      rw [if_pos hn, if_neg (by omega), if_pos ⟨by omega, hn⟩]
    · rw [if_neg hn]
      by_cases hc : P.reach col = some p
      · have hne : n ≠ col := fun e => hn (e ▸ hc)
        simp only [hc, and_true]
        congr 1
        exact propext (by omega)
      · simp only [hc, and_false, if_false]

theorem samples_pos {test : Nat → Bool} {col : Nat} (hf : P.first ≤ col) (hn : col < n) (h : test col = true) :
    0 < P.samples n test :=
  List.countP_pos_iff.mpr ⟨col, List.mem_range.mpr hn, by simp [hf, h]⟩

/-- The order of the sectors where the samples come to sector `i` alone. -/
theorem order_single {i : Nat} (h : ∀ col p, P.reach col = some p → p.1 = i) (l : List Nat) (n : Nat) :
    P.order n l = if 0 < P.samples n (P.comesTo i) then i :: l.filter fun k => decide (k ≠ i) else l := by
  induction n with
  | zero => rfl
  | succ n ih =>
    rw [order_succ]
    cases hr : P.reach n with
    | none =>
      rw [samples_succ_false (by rw [comesTo, hr]; rfl), ih]
    | some p =>
      have hf : P.first ≤ n := by by_contra hf; rw [reach, if_neg hf] at hr; cases hr
      have hp := h n p hr
      have hcome : P.comesTo i n = true := by rw [comesTo, hr]; simpa using hp
      rw [samples_succ_true hf hcome, if_pos (Nat.succ_pos _), ih]
      subst hp
      dsimp only
      split
      · rw [filter_cons_filter]
      · rfl

end SamplePlan

/-! ## A block at its own tile -/

/-- The places of a block in a sector that holds its tile: those of the pixels that are not hot. -/
def Fold.rowPlace (g : Fold) (i col : Nat) : Option (Nat × Nat) :=
  if g.darkAt col = .hot then none else some (i, g.row % 32 * 32 + col)

/-- What the sample of each column makes of its record in `x`, none where the pixel is hot. -/
def State.rowEnds (u : State) (g : Fold) (x : Sector) (col : Nat) : Option (Fate × Rec) :=
  if g.darkAt col = .hot then none else some (u.absorbs g col (x.rec_ (g.row % 32 * 32 + col)))

section Row

variable {s u t : State} {g : Fold} {i tile : Nat} {x : Sector}

theorem rowPlan_reach {col : Nat} (hf : g.column ≤ col) :
    (u.planOf g (g.rowPlace i)).reach col = g.rowPlace i col := if_pos hf

/-- A place of the row is that of one column. -/
theorem rowPlan_reach_some {col : Nat} {p : Nat × Nat} (h : (u.planOf g (g.rowPlace i)).reach col = some p) :
    g.column ≤ col ∧ g.darkAt col ≠ .hot ∧ p = (i, g.row % 32 * 32 + col) := by
  have hf : g.column ≤ col := by
    by_contra hf
    rw [SamplePlan.reach, if_neg (show ¬(u.planOf g (g.rowPlace i)).first ≤ col from hf)] at h
    cases h
  rw [rowPlan_reach hf, Fold.rowPlace] at h
  split at h
  · cases h
  · next hd => exact ⟨hf, hd, (Option.some.inj h).symm⟩

theorem rowPlan_recAfter (r : Rec) (col n : Nat) :
    recAfter (u.planOf g (g.rowPlace i)).reach (u.planOf g (g.rowPlace i)).absorb (i, g.row % 32 * 32 + col) r n
      = if col < n ∧ g.column ≤ col ∧ g.darkAt col ≠ .hot then (u.absorbs g col r).2 else r := by
  rw [SamplePlan.recAfter_once (col := col) fun k hk => ?_]
  · congr 1
    refine propext (and_congr_right fun _ => ⟨fun h => ?_, fun h => ?_⟩)
    · obtain ⟨hf, hd, -⟩ := rowPlan_reach_some h
      exact ⟨hf, hd⟩
    · rw [rowPlan_reach h.1, Fold.rowPlace, if_neg h.2]
  · obtain ⟨-, -, hp⟩ := rowPlan_reach_some hk
    have := (Prod.mk.inj hp).2
    omega

/-- How the samples of the row end: each finds its record as `x` holds it. -/
theorem rowPlan_fate (hx : u.cache.sector i = some x) {col : Nat} (hf : g.column ≤ col) :
    (u.planOf g (g.rowPlace i)).fate u col = (u.rowEnds g x col).map Prod.fst := by
  by_cases hd : g.darkAt col = .hot
  · rw [SamplePlan.fate, rowPlan_reach hf, Fold.rowPlace, State.rowEnds, if_pos hd, if_pos hd]
    rfl
  · have hr : (u.planOf g (g.rowPlace i)).reach col = some (i, g.row % 32 * 32 + col) := by
      rw [rowPlan_reach hf, Fold.rowPlace, if_neg hd]
    rw [SamplePlan.fate_some hr hx, rowPlan_recAfter, if_neg (by omega), State.rowEnds, if_neg hd]
    rfl

theorem rowPlan_wrote (hx : u.cache.sector i = some x) {col : Nat} (hf : g.column ≤ col) :
    (u.planOf g (g.rowPlace i)).wrote u col = (u.rowEnds g x col).any fun p => decide (p.1 ≠ .collided) := by
  rw [SamplePlan.wrote, rowPlan_fate hx hf]
  cases u.rowEnds g x col <;> rfl

theorem rowPlan_comesTo {col : Nat} (hf : g.column ≤ col) :
    (u.planOf g (g.rowPlace i)).comesTo i col = (u.rowEnds g x col).isSome := by
  rw [SamplePlan.comesTo, rowPlan_reach hf, Fold.rowPlace, State.rowEnds]
  by_cases hd : g.darkAt col = .hot <;> simp [hd]

theorem rowPlan_touches (hx : u.cache.sector i = some x) {col : Nat} (hf : g.column ≤ col) (k : Nat) :
    (u.planOf g (g.rowPlace i)).touches u k col
      = ((u.rowEnds g x col).any (fun p => decide (p.1 ≠ .collided)) && decide (x.tile = k)) := by
  rw [SamplePlan.touches, rowPlan_wrote hx hf, rowPlan_reach hf, Fold.rowPlace, State.rowEnds]
  by_cases hd : g.darkAt col = .hot <;> simp [hd, hx]

theorem rowPlan_placed (hx : u.cache.sector i = some x) : (u.planOf g (g.rowPlace i)).placed u := by
  intro col _ _
  by_cases hd : g.darkAt col = .hot
  · exact .inl (if_pos hd)
  · exact .inr ⟨decide_eq_false hd, _, x, if_neg hd, hx⟩

/-- A counter counts a sample of a row by its end, none where the pixel is hot. -/
def rowTest (r : Counter) (e : Option (Fate × Rec)) : Bool :=
  match r with
  | .hotSkips => e.isNone
  | .collided => e.any fun p => decide (p.1 = .collided)
  | .saturated => e.any fun p => decide (p.1 = .saturated)
  | .rejected => e.any fun p => decide (p.1 = .rejected)
  | _ => false

theorem rowPlan_countTest (hx : u.cache.sector i = some x) {col : Nat} (hf : g.column ≤ col) (r : Counter) :
    (u.planOf g (g.rowPlace i)).countTest u r col = rowTest r (u.rowEnds g x col) := by
  have hfate := rowPlan_fate hx hf
  have hhot : (u.planOf g (g.rowPlace i)).hot col = (u.rowEnds g x col).isNone := by
    rw [State.rowEnds]
    by_cases hd : g.darkAt col = .hot <;> simp [State.planOf, hd]
  have hplace : ((u.planOf g (g.rowPlace i)).place col).isNone = (u.rowEnds g x col).isNone := by
    rw [State.rowEnds]
    by_cases hd : g.darkAt col = .hot <;> simp [State.planOf, Fold.rowPlace, hd]
  generalize u.rowEnds g x col = e at hfate hhot hplace
  cases e <;> cases r <;> simp [SamplePlan.countTest, rowTest, hfate, hhot, hplace]

/-- What a row leaves is what its plan leaves; `s` is `u` but for what sector `i` held before its first sample. -/
theorem SamplePlan.Leaves.rowFolded (h : (u.planOf g (g.rowPlace i)).Leaves u 32 t)
    (hu : u = s.setCache (s.cache.setSector i (some x))) (hcol : g.column < 32) (hd : g.darkAt g.column ≠ .hot)
    (ht : x.tile = tile) : s.rowFolded t g.column i tile g.row x (u.rowEnds g x) := by
  have hx : u.cache.sector i = some x := by
    rw [hu]
    exact Table.get_set_same none s.cache.sectors i (some x)
  have hsu : s.foldsOnly u := by
    rw [hu]
    exact ⟨rfl, rfl, rfl, rfl, rfl, rfl, rfl, rfl, rfl, rfl, rfl, rfl, rfl, rfl, rfl, rfl, rfl, rfl⟩
  have hothers (k : Nat) (hk : k ≠ i) : u.cache.sector k = s.cache.sector k := by
    rw [hu]
    exact Table.get_set_other none s.cache.sectors (some x) hk
  have hrec : u.cache.recency = s.cache.recency := by rw [hu]; rfl
  have htou (k : Nat) : u.cache.isTouched k = s.cache.isTouched k := by rw [hu]; rfl
  have hcnt (r : Counter) : u.counter r = s.counter r := by rw [hu]; rfl
  have hsingle (col : Nat) (p : Nat × Nat) (hr : (u.planOf g (g.rowPlace i)).reach col = some p) : p.1 = i := by
    obtain ⟨-, -, rfl⟩ := rowPlan_reach_some hr
    rfl
  have hcome : 0 < (u.planOf g (g.rowPlace i)).samples 32 ((u.planOf g (g.rowPlace i)).comesTo i) := by
    refine SamplePlan.samples_pos (col := g.column) (Nat.le_refl _) hcol ?_
    rw [rowPlan_comesTo (x := x) (Nat.le_refl _), State.rowEnds, if_neg hd]
    rfl
  have hwrote : (u.planOf g (g.rowPlace i)).samples 32 (fun col => (u.planOf g (g.rowPlace i)).comesTo i col
      && (u.planOf g (g.rowPlace i)).wrote u col)
      = samplesFrom g.column fun col => (u.rowEnds g x col).any fun p => decide (p.1 ≠ .collided) := by
    refine SamplePlan.samples_congr fun col hf _ => ?_
    rw [rowPlan_comesTo (x := x) hf, rowPlan_wrote hx hf]
    cases u.rowEnds g x col <;> rfl
  obtain ⟨y, hy, htile, hheld, honce, hfresh, hstate, hrecs⟩ := h.sector i x hx
  refine ⟨⟨y, hy, htile.trans ht, ?_, honce, hfresh, ?_, fun col hf hlt => ?_, fun pos hpos => ?_⟩, fun k hk => ?_, ?_,
    fun k => ?_, fun r => ?_, State.foldsOnly_trans hsu h.frame⟩
  · rw [hheld, decide_eq_true hcome, Bool.or_true]
  · rw [hstate, hwrote]
  · rw [hrecs, rowPlan_recAfter, State.rowEnds]
    by_cases hh : g.darkAt col = .hot
    · rw [if_neg fun hc => hc.2.2 hh, if_pos hh]
      rfl
    · rw [if_pos ⟨hlt, hf, hh⟩, if_neg hh]
      rfl
  · have hout : ¬(pos - g.row % 32 * 32 < 32
        ∧ (u.planOf g (g.rowPlace i)).reach (pos - g.row % 32 * 32) = some (i, pos)) := fun ⟨hlt, hr⟩ => by
      obtain ⟨hf, -, hp⟩ := rowPlan_reach_some hr
      have := (Prod.mk.inj hp).2
      omega
    rw [hrecs, SamplePlan.recAfter_once fun k hk => ?_, if_neg hout]
    obtain ⟨-, -, hp⟩ := rowPlan_reach_some hk
    have := (Prod.mk.inj hp).2
    omega
  · rw [h.unreached k fun col p _ hr hp => hk (hp.symm.trans (hsingle col p hr)), hothers k hk]
  · rw [h.recency, SamplePlan.order_single hsingle, if_pos hcome, hrec]
  · rw [h.touched, htou, Bool.or_comm]
    congr 1
    by_cases hk : k = tile
    · have heq : (u.planOf g (g.rowPlace i)).samples 32 ((u.planOf g (g.rowPlace i)).touches u k)
          = samplesFrom g.column fun col => (u.rowEnds g x col).any fun p => decide (p.1 ≠ .collided) :=
        SamplePlan.samples_congr fun col hf _ => by rw [rowPlan_touches hx hf, ht, hk]; simp
      rw [heq]
      simp [hk, Nat.pos_iff_ne_zero]
    · have hzero : (u.planOf g (g.rowPlace i)).samples 32 ((u.planOf g (g.rowPlace i)).touches u k)
          = (u.planOf g (g.rowPlace i)).samples 32 fun _ => false :=
        SamplePlan.samples_congr fun col hf _ => by rw [rowPlan_touches hx hf, ht]; simp [Ne.symm hk]
      rw [hzero, SamplePlan.samples_none]
      simp [hk]
  · have htest : (u.planOf g (g.rowPlace i)).samples 32
        (fun col => decide ((u.planOf g (g.rowPlace i)).counts u col = some r))
        = samplesFrom g.column fun col => rowTest r (u.rowEnds g x col) :=
      SamplePlan.samples_congr fun col hf hlt =>
        (SamplePlan.counts_eq (rowPlan_placed hx) r hf hlt).trans (rowPlan_countTest hx hf r)
    have hzero : samplesFrom g.column (fun _ => false) = 0 := (u.planOf g (g.rowPlace i)).samples_none 32
    rw [h.counter r, htest, hcnt]
    cases r <;> simp only [rowTest, hzero]

end Row

end Sys2Proof.Machine
end

section
/-! PROOFS. The rule of a fold: hot pixels, a row from its first sample on, and what `foldLeadsTo` says (R73 to R90). -/

namespace Sys2Proof.Machine

/-! ## Hot pixels before the first sample of a row (R76) -/

theorem satAdd_satAdd {w : Nat} (v : BitVec w) (a b : Nat) : satAdd (satAdd v a) b = satAdd v (a + b) := by
  have hpos : 0 < 2 ^ w := Nat.two_pow_pos w
  have hlt (k : Nat) : min (2 ^ w - 1) k < 2 ^ w := by omega
  refine BitVec.eq_of_toNat_eq ?_
  simp only [satAdd, BitVec.toNat_ofNat, Nat.mod_eq_of_lt (hlt _)]
  omega

/-- A counter that rises twice rises by the sum. -/
theorem count_count (c : Counter) (a b : Nat) (s : State) : count c b (count c a s) = count c (a + b) s := by
  have hv : (count c a s).counter c = satAdd (s.counter c) a := Table.get_set_same 0 s.rep.counters c.index _
  have ht : Table.set 0 (Table.set 0 s.rep.counters c.index (satAdd (s.counter c) a)) c.index
      (satAdd ((count c a s).counter c) b) = Table.set 0 s.rep.counters c.index (satAdd (s.counter c) (a + b)) := by
    rw [Table.set_set, hv, satAdd_satAdd]
  exact congrArg (fun t => s.setRep { s.rep with counters := t }) ht

/-- `u` once the first `k` pixels of a block, all hot, have been skipped. -/
def State.skips (u : State) (k : Nat) : State := if k = 0 then u else count .hotSkips k u

theorem State.skips_succ (u : State) (k : Nat) : u.skips (k + 1) = count .hotSkips 1 (u.skips k) := by
  unfold State.skips
  rw [if_neg (Nat.succ_ne_zero k)]
  split
  · next hk => rw [hk]
  · rw [count_count]

theorem State.foldsOnly_skips (u : State) (k : Nat) : u.foldsOnly (u.skips k) := by
  unfold State.skips
  split
  · exact u.foldsOnly_refl
  · exact u.foldsOnly_count _ _

theorem State.skips_cache (u : State) (k : Nat) : (u.skips k).cache = u.cache := by
  unfold State.skips
  split <;> rfl

section Fold

variable {u : State} {g : Fold}

/-- The first pixels of a block are skipped where they are hot. -/
theorem runFold_skips (hc : u.classAt (g.tileIn u.cmd.snap) ≠ .exclude) (k : Nat) (hk : g.column + k ≤ 32)
    (hhot : ∀ col, g.column ≤ col → col < g.column + k → g.darkAt col = .hot) :
    runFold g u = runFold { g with column := g.column + k } (u.skips k) := by
  induction k with
  | zero => rfl
  | succ k ih =>
    have hframe := u.foldsOnly_skips k
    have hcs : (u.skips k).classAt (g.tileIn (u.skips k).cmd.snap) ≠ .exclude := by
      rw [State.foldsOnly_classAt hframe, State.foldsOnly_cmd hframe]
      exact hc
    have hstep : foldSample { g with column := g.column + k } (u.skips k) = .ended (u.skips (k + 1)) := by
      rw [State.skips_succ]
      exact foldSample_hot (g := { g with column := g.column + k }) (by show g.column + k < 32; omega) hcs
        (hhot (g.column + k) (by omega) (by omega))
    have hn : 32 - (g.column + k) = 32 - (g.column + (k + 1)) + 1 := by omega
    rw [ih (by omega) fun col hf hlt => hhot col hf (by omega), runFold, runFold]
    show foldSamples (32 - (g.column + k)) _ _ = _
    rw [hn, foldSamples, hstep]
    rfl

/-! ## A row from its first sample on -/

/-- The sector that serves the first sample of a row holds the row's tile after, CLEAN or DIRTY. -/
theorem State.servesFold_keeps {i tile : Nat} {x : Sector} (h : u.servesFold i tile x) :
    (u.cache.setSector i (some x)).keeps i tile x ∧ (x.state = .clean ∨ x.state = .dirty) := by
  have hself : (u.cache.setSector i (some x)).sector i = some x := Table.get_set_same none u.cache.sectors i (some x)
  have hother (k : Nat) (hk : k < i) : (u.cache.setSector i (some x)).sector k = u.cache.sector k :=
    Table.get_set_other none u.cache.sectors (some x) (Nat.ne_of_lt hk)
  rcases h with ⟨⟨hi, -, ht, hlow⟩, hstate⟩ | ⟨⟨hi, -⟩, hlacks, -, rfl⟩
  · exact ⟨⟨hi, hself, ht, fun k y hk hy => hlow k y hk (hother k hk ▸ hy)⟩, hstate⟩
  · exact ⟨⟨hi, hself, rfl, fun k y hk hy => hlacks k y (by omega) (hother k hk ▸ hy)⟩, .inl rfl⟩

/-- A block whose samples reach their own tile, from a first pixel that is not hot, in a sector that serves it. -/
theorem runFold_row (hs : u.straight g) (hcol : g.column < 32) (hd : g.darkAt g.column ≠ .hot) {i : Nat} {x : Sector}
    (hserves : u.servesFold i (g.tileIn u.cmd.snap) x) :
    ∃ m, runFold g u = (m, none) ∧ u.rowFolded m g.column i (g.tileIn u.cmd.snap) g.row x (u.rowEnds g x) := by
  obtain ⟨hkeeps, hstate⟩ := State.servesFold_keeps hserves
  have hplaces : (u.setCache (u.cache.setSector i (some x))).placesFold g (g.rowPlace i) := by
    intro col _ hlt
    rw [Fold.rowPlace]
    by_cases hh : g.darkAt col = .hot
    · rw [if_pos hh, if_pos hh]
    · have hsends : (u.setCache (u.cache.setSector i (some x))).sends g col
          = some (g.tileIn u.cmd.snap, g.row % 32 * 32 + col) := State.sends_straight hs hlt
      rw [if_neg hh, if_neg hh, hsends]
      exact ⟨i, x, rfl, hkeeps, hstate⟩
  have hc : u.classAt (g.tileIn u.cmd.snap) ≠ .exclude := State.straight_class hs
  have hleaves := State.placesFold_leaves hplaces (Nat.le_refl 32)
  obtain ⟨-, -, htile, -⟩ := id hkeeps
  refine ⟨_, ?_, hleaves.rowFolded rfl hcol hd htile⟩
  have hfirst : foldSample g u = foldSample g (u.setCache (u.cache.setSector i (some x))) := by
    rw [foldSample_served hcol hc hd (State.sends_straight hs hcol) hserves,
      foldSample_served (u := u.setCache (u.cache.setSector i (some x))) hcol hc hd (State.sends_straight hs hcol)
        (.inl ⟨hkeeps, hstate⟩), State.sampled_setSector]
    rfl
  have hrun := runFold_planned hplaces hc
  have hn : 32 - g.column = 31 - g.column + 1 := by omega
  rw [runFold, hn, foldSamples] at hrun ⊢
  rw [hfirst]
  exact hrun

/-- The same from the first pixel that is not hot, those before it skipped. -/
theorem runFold_row_skips (hs : u.straight g) (k : Nat) (hk : g.column + k < 32)
    (hhot : ∀ col, g.column ≤ col → col < g.column + k → g.darkAt col = .hot) (hd : g.darkAt (g.column + k) ≠ .hot)
    {i : Nat} {x : Sector} (hserves : u.servesFold i (g.tileIn u.cmd.snap) x) :
    ∃ m, runFold g u = (m, none)
      ∧ (u.skips k).rowFolded m (g.column + k) i (g.tileIn u.cmd.snap) g.row x (u.rowEnds g x) := by
  have hframe := u.foldsOnly_skips k
  have hcmd := State.foldsOnly_cmd hframe
  have hs' : (u.skips k).straight { g with column := g.column + k } := by
    unfold State.straight
    rw [hcmd, State.foldsOnly_classAt hframe]
    exact hs
  have hserves' : (u.skips k).servesFold i (g.tileIn (u.skips k).cmd.snap) x := by
    unfold State.servesFold
    rw [u.skips_cache, hcmd]
    exact hserves
  have hends : (u.skips k).rowEnds { g with column := g.column + k } x = u.rowEnds g x := by
    funext col
    rw [State.rowEnds, State.foldsOnly_absorbs hframe]
    rfl
  obtain ⟨m, hm, hfolded⟩ := runFold_row (g := { g with column := g.column + k }) hs' hk hd hserves'
  rw [hends, hcmd] at hfolded
  exact ⟨m, (runFold_skips (State.straight_class hs) k (Nat.le_of_lt hk) hhot).trans hm, hfolded⟩

/-! ## The rule of a fold -/

/-- What is to be shown of a fold's samples holds of what `runFold` answers. -/
theorem samplesLeadTo_of_runFold {done : State → Prop} {waits : State → Fold → Prop}
    (hd : ∀ t, runFold g u = (t, none) → done t) (hw : ∀ t g', runFold g u = (t, some g') → waits t g') :
    State.samplesLeadTo done waits (32 - g.column) g u := by
  rcases Nat.lt_or_ge 32 g.column with hlt | hge
  · have hn : 32 - g.column = 0 := by omega
    rw [runFold, hn] at hd
    rw [hn]
    exact hd u rfl
  · exact State.samplesLeadTo_of (32 - g.column) g u (by omega) hd hw

end Fold

/-- What is to be shown of a fold holds of what `runFold` answers. -/
theorem foldLaw : FoldLaw := by
  intro u g done waits hd hw
  refine ⟨samplesLeadTo_of_runFold hd hw, fun hs c hf hlt hhot hnot i x hserves => ?_, fun hcls place hplace => ?_⟩
  · obtain ⟨k, rfl⟩ := Nat.exists_eq_add_of_le hf
    have hskips : u.skips k
        = if g.column + k = g.column then u else count .hotSkips (g.column + k - g.column) u := by
      simp only [State.skips, Nat.add_sub_cancel_left, Nat.add_eq_left]
    obtain ⟨m, hm, hfolded⟩ := runFold_row_skips hs k hlt hhot hnot hserves
    rw [hskips] at hfolded
    exact ⟨m, hd m hm, hfolded⟩
  · have hplaces : u.placesFold g place := hplace
    have hclass : u.classAt (g.tileIn u.cmd.snap) = .track := hcls
    have hleaves := State.placesFold_leaves hplaces (Nat.le_refl 32)
    exact ⟨_, hd _ (runFold_planned hplaces (by rw [hclass]; nofun)), hleaves.turnFolded (State.placesFold_placed hplaces)⟩

end Sys2Proof.Machine
end

section
/-! PROOFS. The request in hand goes on behind the requests that wait: none of its steps touches them (R165), and what it
comes to is what `handLeadsTo` says. -/

namespace Sys2Proof.Machine

/-! ## What the work on the request in hand leaves of those that wait -/

/-- The state a sample has come to, ended or waiting. -/
def SampleStep.reached : SampleStep → State
  | .ended t => t
  | .waits t => t

/-- The state a pixel has come to, with its value or waiting. -/
def PixelStep.reached : PixelStep → State
  | .value t _ => t
  | .waits t _ => t

/-- The state asking for a record has come to. -/
def RecordRead.reached : RecordRead → State
  | .got t _ => t
  | .waits t => t

theorem countFate_waiting (e : Fate) (s : State) : (countFate e s).waiting = s.waiting := by cases e <;> rfl

theorem takeSample_waiting (g : Fold) (cls : TileClass) (d : BitVec 16) (i pos : Nat) (s : State) :
    (takeSample g cls d i pos s).waiting = s.waiting := by
  unfold takeSample
  split
  · dsimp only
    split <;> simp only [State.setCache_waiting, countFate_waiting]
  · rfl

theorem foldSample_waiting (g : Fold) (s : State) : (foldSample g s).reached.waiting = s.waiting := by
  unfold foldSample
  split
  · rfl
  · rfl
  · rfl
  · split
    · exact takeSample_waiting _ _ _ _ _ _
    · rfl
    · rfl

theorem foldSamples_waiting (n : Nat) : ∀ (g : Fold) (s : State), (foldSamples n g s).1.waiting = s.waiting := by
  induction n with
  | zero => exact fun _ _ => rfl
  | succ n ih =>
    intro g s
    have hstep := foldSample_waiting g s
    rw [foldSamples]
    split
    · next heq =>
      rw [heq] at hstep
      exact (ih _ _).trans hstep
    · next heq =>
      rw [heq] at hstep
      exact hstep

theorem runFold_waiting (g : Fold) (s : State) : (runFold g s).1.waiting = s.waiting := foldSamples_waiting _ g s

theorem foldBlocks_waiting (bs : List Block) : ∀ s : State, (foldBlocks bs s).waiting = s.waiting := by
  induction bs with
  | nil => exact fun _ => rfl
  | cons b rest ih =>
    intro s
    have hrun := runFold_waiting (b.toFold s.hdr.opened) s
    rw [foldBlocks]
    split
    · split
      · next heq =>
        rw [heq] at hrun
        exact (ih _).trans hrun
      · next heq =>
        rw [heq] at hrun
        exact hrun
    · rfl

theorem discardLost_waiting (bs : List Block) (s : State) : (discardLost bs s).waiting = s.waiting := by
  unfold discardLost
  dsimp only
  split <;> rfl

theorem runCapture_waiting (cap : Capture) (s : State) : (runCapture cap s).waiting = s.waiting := by
  have hd := discardLost_waiting cap.blocks s
  unfold runCapture
  dsimp only
  split
  · exact (foldBlocks_waiting _ _).trans hd
  · next g _ =>
    have hrun := runFold_waiting g (discardLost cap.blocks s)
    split
    · next heq =>
      rw [heq] at hrun
      exact (foldBlocks_waiting _ _).trans (hrun.trans hd)
    · next heq =>
      rw [heq] at hrun
      exact hrun.trans hd

theorem readRecord_waiting (f : Frozen) (x y : Nat) (s : State) : (readRecord f x y s).reached.waiting = s.waiting := by
  unfold readRecord
  dsimp only
  split
  · split <;> rfl
  · rfl
  · rfl

theorem finishRight_waiting (f : Frozen) (x y : Nat) (s : State) : (finishRight f x y s).reached.waiting = s.waiting := by
  have hr := readRecord_waiting f (x + 2) y s
  unfold finishRight
  dsimp only
  split
  · split <;> next heq => rw [heq] at hr; exact hr
  · rfl

theorem finishLeft_waiting (f : Frozen) (x y : Nat) (s : State) : (finishLeft f x y s).reached.waiting = s.waiting := by
  have hr := readRecord_waiting f (x - 2) y s
  unfold finishLeft
  dsimp only
  split
  · split
    · next heq =>
      rw [heq] at hr
      exact hr
    · next heq =>
      rw [heq] at hr
      split
      · exact (finishRight_waiting f x y _).trans hr
      · exact hr
  · exact finishRight_waiting f x y s

theorem finishOwn_waiting (f : Frozen) (x y : Nat) (s : State) : (finishOwn f x y s).reached.waiting = s.waiting := by
  have hr := readRecord_waiting f x y s
  unfold finishOwn
  dsimp only
  split
  · rfl
  · split
    · next heq =>
      rw [heq] at hr
      exact hr
    · next heq =>
      rw [heq] at hr
      split
      · exact hr
      · split
        · exact hr
        · exact (finishLeft_waiting f x y _).trans hr

theorem coverPixel_waiting (f : Frozen) (x y : Nat) (s : State) : (coverPixel f x y s).reached.waiting = s.waiting := by
  have hr := readRecord_waiting f x y s
  unfold coverPixel
  split <;> next heq => rw [heq] at hr; exact hr

theorem finishLane_waiting (rd : ResultRead) (s : State) : (finishLane rd s).reached.waiting = s.waiting := by
  unfold finishLane
  split
  · rfl
  · split
    · exact coverPixel_waiting _ _ _ _
    · unfold finishPixel
      split
      · exact finishOwn_waiting _ _ _ _
      · exact finishLeft_waiting _ _ _ _
      · exact finishRight_waiting _ _ _ _

theorem finishLanes_waiting (n : Nat) : ∀ (rd : ResultRead) (s : State), (finishLanes n rd s).waiting = s.waiting := by
  induction n with
  | zero => exact fun _ _ => rfl
  | succ n ih =>
    intro rd s
    have hl := finishLane_waiting rd s
    rw [finishLanes]
    split
    · next heq =>
      rw [heq] at hl
      exact (ih _ _).trans hl
    · next heq =>
      rw [heq] at hl
      exact hl

theorem busyHand_waiting (s : State) : (busyHand s).waiting = s.waiting := by
  unfold busyHand
  split
  · exact discardLost_waiting _ _
  · rfl
  · rfl
  · rfl
  · rfl

/-- The requests that wait stand while the one in hand goes on. -/
theorem resumeHand_waiting (s : State) : (resumeHand s).waiting = s.waiting := by
  unfold resumeHand
  split
  · exact busyHand_waiting s
  · split
    · exact runCapture_waiting _ _
    · exact finishLanes_waiting _ _ _
    · rfl
    · rfl
    · rfl

/-! ## After an event -/

/-- With no request waiting, what comes of an event is what the request in hand comes to. -/
theorem settle_of_waiting_nil {v : State} (h : v.waiting = []) : settle v = resumeHand v := by
  rw [settle, h, setWaiting_nil_of h, takeAll_none ((resumeHand_waiting v).trans h)]

/-- Row `i` has the effect `v` and then settles: by the rule of a fold what the request in hand comes to follows. -/
theorem settlesFrom_of {s v : State} {i : Instr} (he : exec i s = .next (settle v))
    (hw : v.waiting = s.waiting) : s.settlesFrom i v :=
  ⟨he, fun h => handLeadsTo_of foldLaw (he.trans (congrArg _ (settle_of_waiting_nil (hw.trans h))))⟩

end Sys2Proof.Machine
end

section
/-! PROOFS. The writes of the run context end (O50): the stop for an ABORT, the next write, and what each command's save comes
to after its last. -/

namespace Sys2Proof.Machine

variable {s : State}

/-! ## The stop for an ABORT (R164) -/

/-- A fill read in flight is dropped with its fill, any other transaction stands (log 33). -/
theorem Flight.dropFill_eq (f : Flight) : f.dropFill =
    match f.purpose with
    | .fill _ => { f with purpose := .droppedFill }
    | _ => f := rfl

theorem stopForAbort_arb (q : State) :
    (stopForAbort q).arb = { q.arb with inFlight := q.arb.inFlight.map Flight.dropFill } := rfl

/-- The command is stopped by a pending ABORT. -/
theorem stopForAbort_stopsInto (q : State) : q.stopsInto (stopForAbort q) := by
  have hflights : (stopForAbort q).arb.inFlight = q.arb.inFlight.map Flight.dropFill :=
    congrArg Arbiter.inFlight (stopForAbort_arb q)
  refine ⟨rfl, rfl, rfl, rfl, fun h k => q.dark.get_dropBuilding h k, rfl, rfl, rfl,
    hflights.trans (List.map_congr_left fun f _ => f.dropFill_eq), stopForAbort_rot q, stopForAbort_classes q,
    stopForAbort_inHand q, stopForAbort_waiting q, stopForAbort_answers q, stopForAbort_planBase q,
    stopForAbort_resetLow q, stopForAbort_pending q⟩

/-! ## The end of a save (R157 to R159) -/

/-- A save that has ended well or not, by the command it was for. -/
theorem finishSave_endRun (h : s.cmd.saving = some .endRun) (good : Bool) : finishSave good s =
    { s with bulk := none, cmd := { s.cmd with saving := none, run := .ended } }.withOutcome (saveOutcome good) := by
  unfold finishSave
  rw [h]
  rfl

theorem finishSave_checkpoint (h : s.cmd.saving = some .checkpoint) (good : Bool) : finishSave good s =
    (countCheckpoint good { s with bulk := none, cmd := { s.cmd with saving := none } }).withOutcome (saveOutcome good) := by
  unfold finishSave
  rw [h]
  rfl

theorem finishSave_automatic (h : s.cmd.saving = some .automatic) (good : Bool) : finishSave good s =
    { evaluateHeader (countCheckpoint good { s with bulk := none, cmd := { s.cmd with saving := none } }) with
      inHand := none }.answering .ok [] := by
  unfold finishSave
  rw [h]
  rfl

theorem countCheckpoint_waiting {good : Bool} : (countCheckpoint good s).waiting = s.waiting := by cases good <;> rfl

theorem evaluateHeader_waiting : (evaluateHeader s).waiting = s.waiting := by rw [evaluateHeader_frame s]

/-! ## The end of a context write (R155) -/

section Answered

variable {index : Nat} {resp : Response} {base : BitVec 32} {parts : List Chunk} {lost : Bool} {step : Nat}

/-- A write of the run context that is answered is taken off the list; then the event settles. -/
theorem exec_contextWriteEnd (hf : s.flying index .contextWrite)
    (hb : s.bulk = some (.contextWrite base parts lost step true)) :
    exec (.contextWriteEnd index resp) s
      = .next (settle (contextWriteAnswered base parts lost step resp (s.landed index))) := by
  obtain ⟨txn, ht⟩ := flightOf_flying hf (kind := Purpose.isContextWrite) rfl
  show execContextWriteEnd index resp s = _
  unfold execContextWriteEnd
  rw [ht, hb]
  rfl

/-- What is left once the write has been taken off the list and its error, if any, raised. -/
def State.contextWriteLanded (s : State) (index : Nat) (resp : Response) : State :=
  if resp = .error then raise .memoryFault (s.landed index) else s.landed index

theorem contextWriteLanded_cmd : (s.contextWriteLanded index resp).cmd = s.cmd := by
  unfold State.contextWriteLanded
  split <;> rfl

theorem contextWriteLanded_waiting : (s.contextWriteLanded index resp).waiting = s.waiting := by
  unfold State.contextWriteLanded
  split <;> rfl

/-- A pending ABORT stops the command at the write's end (R164). -/
theorem contextWriteAnswered_aborting (h : s.cmd.aborting = true) :
    contextWriteAnswered base parts lost step resp (s.landed index) = stopForAbort (s.contextWriteLanded index resp) := by
  unfold contextWriteAnswered
  exact if_pos ((congrArg CommandUnit.aborting contextWriteLanded_cmd).trans h)

/-- A write that ends well before the 33rd leaves the next to be placed. -/
theorem contextWriteAnswered_next (h : s.cmd.aborting = false) (hok : resp = .ok) (hs : step ≠ 32) :
    contextWriteAnswered base parts lost step resp (s.landed index)
      = { s.landed index with bulk := some (.contextWrite base parts lost (step + 1) false) } := by
  subst hok
  unfold contextWriteAnswered
  simp only [reduceCtorEq, if_false, State.landed_cmd, h, Bool.false_eq_true, hs]
  rfl

/-- The 33rd write, or one in error, ends the save. -/
theorem contextWriteAnswered_last (h : s.cmd.aborting = false) (hl : resp = .error ∨ step = 32) :
    contextWriteAnswered base parts lost step resp (s.landed index)
      = finishSave (decide (resp = .ok) && !lost) (s.contextWriteLanded index resp) := by
  unfold contextWriteAnswered
  cases resp with
  | error => exact (if_neg (by rw [if_pos rfl]; simp [h])).trans (if_pos rfl)
  | ok =>
    have hs : step = 32 := hl.resolve_left nofun
    subst hs
    exact (if_neg (by simp [h])).trans ((if_neg nofun).trans (if_pos rfl))

end Answered

/-- Settles O50: the stop for an ABORT, the next write, and the end of the save each command began; the event then settles. -/
theorem contextWriteEnds : Obligations.ContextWriteEnds := by
  intro s index resp base parts lost step hfly hbulk faulted u good o counted out
  have hexec := exec_contextWriteEnd (resp := resp) hfly hbulk
  have settles {v : State} (hv : contextWriteAnswered base parts lost step resp (s.landed index) = v)
      (hw : v.waiting = s.waiting) : out v := settlesFrom_of (hv ▸ hexec) hw
  refine ⟨fun ha => ?_, fun ha => ⟨fun hok hs => ?_, fun hl => ?_⟩⟩
  · exact ⟨_, settles (contextWriteAnswered_aborting ha) ((stopForAbort_waiting _).trans contextWriteLanded_waiting),
      stopForAbort_stopsInto _⟩
  · exact settles (contextWriteAnswered_next ha hok hs) rfl
  · have hcmd : (s.contextWriteLanded index resp).cmd = s.cmd := contextWriteLanded_cmd
    have hlast := contextWriteAnswered_last (base := base) (parts := parts) (lost := lost) (index := index) ha hl
    refine ⟨fun hw => ?_, fun hw => ?_, fun _ hw => ?_⟩ <;> rw [← hcmd] at hw
    · have hsave := finishSave_endRun hw good
      rw [hcmd] at hsave
      exact settles (hlast.trans hsave) contextWriteLanded_waiting
    · have hsave := finishSave_checkpoint hw good
      rw [hcmd] at hsave
      exact settles (hlast.trans hsave) (countCheckpoint_waiting.trans contextWriteLanded_waiting)
    · have hsave := finishSave_automatic hw good
      rw [hcmd] at hsave
      exact settles (hlast.trans hsave)
        (evaluateHeader_waiting.trans (countCheckpoint_waiting.trans contextWriteLanded_waiting))

end Sys2Proof.Machine
end

section
/-! PROOFS. The command words that are refused (O17), the dark library's commands as they begin (O24, O25), and ABORT while
BUSY (O27). -/

-- The proofs of this file are gone through one after another: the memory limit of the check leaves no room for more threads.
set_option deprecated.oldSectionVars true

namespace Sys2Proof.Machine

variable {s : State}

/-! ## Refusals (R147) -/

section Refusal

variable {code arg : BitVec 16} {t : State} {o : CommandOutcome}

/-- A code that names a command is one of the eight (R147). -/
theorem namedCode_cases (h : isNamedCode code = true) : code = startCode ∨ code = endCode ∨ code = checkpointCode
    ∨ code = resumeCode ∨ code = commitDarkCode ∨ code = dropDarkCode ∨ code = adoptLibraryCode ∨ code = abortCode := by
  simpa only [isNamedCode, List.contains_cons, List.contains_nil, Bool.or_false, Bool.or_eq_true, beq_iff_eq] using h

/-- An arg that its command does not take is refused before the run state is looked at (R147, R152, R56, R65). -/
theorem judge_badArg_start (h : 1 < arg.toNat) : judge startCode arg t = finishCommand .badCommand t := if_pos h

theorem judge_badArg_slot (hc : code = commitDarkCode ∨ code = dropDarkCode) (h : 3 < arg.toNat) :
    judge code arg t = finishCommand .badSlot t := by
  rcases hc with rfl | rfl <;> exact if_pos h

/-- A command whose arg passes is refused in a run state that the table of R147 does not allow it in. -/
theorem judge_wrongState (hn : isNamedCode code = true) (hs : ¬(code = startCode ∧ 1 < arg.toNat))
    (hd : ¬((code = commitDarkCode ∨ code = dropDarkCode) ∧ 3 < arg.toNat)) (h : allowedNow code t = false) :
    judge code arg t = finishCommand .wrongState t := by
  have hcode := namedCode_cases hn
  clear hn
  rcases hcode with rfl | rfl | rfl | rfl | rfl | rfl | rfl | rfl
  · exact (if_neg fun ha => hs ⟨rfl, ha⟩).trans (if_pos (not_or.mp (of_decide_eq_false h)))
  · exact if_pos (of_decide_eq_false h)
  · exact if_pos (of_decide_eq_false h)
  · exact if_pos (of_decide_eq_false h)
  · exact (if_neg fun ha => hd ⟨.inl rfl, ha⟩).trans (if_pos (not_and_or.mp (of_decide_eq_false h)))
  · exact (if_neg fun ha => hd ⟨.inr rfl, ha⟩).trans (if_pos (not_or.mp (of_decide_eq_false h)))
  · exact if_pos (not_or.mp (of_decide_eq_false h))
  · cases h

/-- START and COMMIT_DARK, with their arg and the run state passed: their own checks (R150, R152, R56). -/
theorem judge_start_allowed (ha : ¬1 < arg.toNat) (hr : allowedNow startCode t = true) : judge startCode arg t =
    if !t.cmd.plan.frozen.usable t.planBase then finishCommand .badPlan t
    else if !darkTest (startMode arg) t.cmd.plan.frozen t.dark then finishCommand .noDark t
    else finishCommand .done (startRun (startMode arg) t) :=
  (if_neg ha).trans (if_neg fun h => not_or.mpr h (of_decide_eq_true hr))

theorem judge_commitDark_empty (ha : ¬3 < arg.toNat) (hr : allowedNow commitDarkCode t = true) (hf : t.hdr.folded = 0) :
    judge commitDarkCode arg t = finishCommand .emptyRun t :=
  (if_neg ha).trans ((if_neg fun h => not_and_or.mpr h (of_decide_eq_true hr)).trans (if_pos hf))

/-- A value taken by cases is that of the case that holds. -/
theorem ite_eq_elim {α : Type} {P G : Prop} [Decidable P] {u v w : α} (h : (if P then u else v) = w) (hp : P → u = w → G)
    (hn : ¬P → v = w → G) : G := by
  split at h
  next hP => exact hp hP h
  next hP => exact hn hP h

/-- The first check of R147 that a command fails gives its outcome, and that is all it does. -/
theorem judge_refused (h : refusalOf code arg t = some o) : judge code arg t = finishCommand o t := by
  refine ite_eq_elim h (fun hb ho => ?_) fun hb h => ite_eq_elim h (fun hd ho => ?_) fun hd h =>
    ite_eq_elim h (fun hr ho => ?_) fun hr h => ?_
  · rw [← Option.some.inj ho]
    rcases hb with hn | ⟨rfl, ha⟩
    · exact judge_unnamed hn arg t
    · exact judge_badArg_start ha
  · rw [← Option.some.inj ho]
    exact judge_badArg_slot hd.1 hd.2
  · rw [← Option.some.inj ho]
    obtain ⟨hn, hs⟩ := not_or.mp hb
    exact judge_wrongState (Bool.of_not_eq_false hn) hs hd hr
  replace hr := Bool.of_not_eq_false hr
  refine ite_eq_elim h (fun hc h => ?_) fun _ h => ite_eq_elim h (fun hf ho => ?_) fun _ h =>
    absurd h.symm (Option.some_ne_none o)
  · rw [hc, judge_start_allowed (fun ha => hb (.inr ⟨hc, ha⟩)) (hc ▸ hr)]
    refine ite_eq_elim h (fun hu ho => ?_) fun hu h => ite_eq_elim h (fun hk ho => ?_) fun _ h =>
      absurd h.symm (Option.some_ne_none o)
    · rw [hu, ← Option.some.inj ho]
      rfl
    · rw [Bool.of_not_eq_false hu, hk, ← Option.some.inj ho]
      rfl
  · rw [← Option.some.inj ho]
    obtain ⟨rfl, hf⟩ := hf
    exact judge_commitDark_empty (fun ha => hd ⟨.inl rfl, ha⟩) hr hf

end Refusal

/-- A command row writes its command word on the plan page (R144). -/
theorem exec_commandRow (i : Instr) :
    (commandRow i).elim True fun p => exec i s = .next (arrive (commandRequest p.1 p.2 s) s) := by
  cases i <;> trivial

/-- A command taken in READY: its judgement, and the write that carries it. -/
theorem exec_takesCommand {i : Instr} {code : BitVec 16} {b : CommandBurst} {t : State}
    (hi : commandRow i = some (code, b)) (h : s.takesCommand code b) (hj : judge code b.arg (s.atCommand code b) = t)
    (hw : t.waiting = s.waiting) : exec i s = .next (t.carrying (commandRequest code b s)) := by
  have hexec := exec_commandRow (s := s) i
  rw [hi] at hexec
  rw [hexec, arrive_takesCommand h (hj ▸ hw), hj]

/-- Settles O17: the judgement of a command that fails a check of R147 is its outcome alone. -/
theorem refusedCommandsOnlyWriteTheirOutcome : Obligations.RefusedCommandsOnlyWriteTheirOutcome :=
  fun _ _ _ _ _ hi h ho => exec_takesCommand hi h (judge_refused ho) rfl

/-! ## COMMIT_DARK (R56, R58, R59) -/

/-- The walk comes to a tile that is touched: its records are to be read (R59). -/
theorem beginTile_touched {job : Commit} (h : s.cache.isTouched job.tile = true) :
    beginTile job s = s.setBulk (some (.recordRead job 0 0 false [])) := if_pos h

/-- The walk comes to an untouched tile: its plane bytes are 0 and its 1024 pixels uncovered (R58). -/
theorem beginTile_untouched {job : Commit} (h : ¬s.cache.isTouched job.tile = true) :
    beginTile job s = countCommit 0 1024 (s.setBulk (some (.planeWrite job (List.replicate 16 0) 0 0 false))) := if_neg h

/-- A value that rises by 0 stands. -/
theorem satAdd_zero {w : Nat} (v : BitVec w) : satAdd v 0 = v := by
  exact BitVec.eq_of_toNat_eq ((satAdd_toNat v 0).trans (Nat.min_eq_right (Nat.le_sub_one_of_lt v.isLt)))

/-- A tile without hot pixels leaves their count as it stands (R187). -/
theorem countCommit_uncovered (n : Nat) (t : State) :
    countCommit 0 n t = { t with rep := { t.rep with uncovered := satAdd t.rep.uncovered n } } := by
  rw [countCommit, satAdd_zero]
  rfl

/-- Settles O24: COMMIT_DARK passes its checks, then the walk comes to tile 0, touched or not. -/
theorem commitDarkBeginsItsWalk : Obligations.CommitDarkBeginsItsWalk := by
  intro s b h harg hrun hmode hfolded p k slot job q
  have hj : judge commitDarkCode b.arg (s.atCommand commitDarkCode b)
      = beginTile job { q with rep := { p.rep with hotMarked := 0, uncovered := 0 } } := by
    exact (if_neg (Nat.not_lt.mpr harg)).trans
      ((if_neg fun hr => hr.elim (absurd hrun) (absurd hmode)).trans (if_neg hfolded))
  refine exec_takesCommand rfl h (hj.trans ?_) ?_
  · by_cases ht : s.cache.isTouched 0 = true
    · rw [if_pos ht]
      exact beginTile_touched ht
    · rw [if_neg ht]
      refine (beginTile_untouched ht).trans ((countCommit_uncovered _ _).trans ?_)
      exact congrArg (fun u => State.setRep _ { p.rep with hotMarked := 0, uncovered := u })
        (by decide : satAdd 0 1024 = (1024 : BitVec 32))
  · split <;> rfl

/-! ## DROP_DARK and ADOPT_LIBRARY (R64 to R67, R149) -/

theorem badCkptBase_iff {base : BitVec 32} :
    badCkptBase base = true ↔ base.toNat % 1048576 ≠ 0 ∨ 2147483648 < base.toNat + 8192 := decide_eq_true_iff

/-- The base is tested in IDLE alone (R149). -/
theorem badLibraryBase_iff : s.badLibraryBase = true ↔
    s.cmd.run = .idle ∧ (s.libraryBase.toNat % 1048576 ≠ 0 ∨ 2147483648 < s.libraryBase.toNat + 8192) := by
  rw [State.badLibraryBase, Bool.and_eq_true, decide_eq_true_iff, badCkptBase_iff]

/-- The library is at the plan shadow's base in IDLE, at the snapshot's in ENDED (R149). -/
theorem libraryBase_eq {s : State} (h : s.cmd.run = .idle ∨ s.cmd.run = .ended) :
    s.libraryBase = if s.cmd.run = .ended then s.cmd.snap.ckptBase else s.cmd.plan.frozen.ckptBase := by
  rcases h with h | h <;> simp [State.libraryBase, State.active, h]

/-- A state taken by cases keeps the waiting requests where both cases do. -/
theorem waiting_ite {P : Prop} [Decidable P] {t u : State} {l : List Request} (ht : t.waiting = l) (hu : u.waiting = l) :
    (if P then t else u).waiting = l := by
  split
  · exact ht
  · exact hu

/-- An accepted DROP_DARK: the slot is EMPTY, then the bad base or the write of the library record (R65, R149). -/
theorem judgeDropDark_accepted {t : State} {arg : BitVec 16} (harg : arg.toNat ≤ 3)
    (hrun : t.cmd.run = .idle ∨ t.cmd.run = .ended) : judgeDropDark arg t =
      let q := { t.accepted .dropDark arg with dark := t.dark.setSlot arg.toNat none }
      if t.badLibraryBase = true then (raise .memoryFault q).withOutcome .memoryFault
      else { q with bulk := some (.libraryWrite t.libraryBase q.dark.libraryImage false) } := by
  rw [judgeDropDark, if_neg (Nat.not_lt.mpr harg), if_neg (not_and_or.mpr (hrun.imp not_not_intro not_not_intro))]
  rfl

/-- An accepted ADOPT_LIBRARY: the bad base or the read of the library record (R66, R149). -/
theorem judgeAdoptLibrary_accepted {t : State} {arg : BitVec 16} (hrun : t.cmd.run = .idle ∨ t.cmd.run = .ended) :
    judgeAdoptLibrary arg t =
      let q := t.accepted .adoptLibrary arg
      if t.badLibraryBase = true then (raise .memoryFault q).withOutcome .memoryFault
      else { q with bulk := some (.libraryRead t.libraryBase false) } := by
  rw [judgeAdoptLibrary, if_neg (not_and_or.mpr (hrun.imp not_not_intro not_not_intro))]
  rfl

/-- Settles O25: both commands pass their checks, then end at once from a bad base or begin their access. -/
theorem libraryCommandsBegin : Obligations.LibraryCommandsBegin := by
  intro s b hrun
  constructor
  · intro h harg p q base
    have hj := judgeDropDark_accepted (t := s.atCommand dropDarkCode b) harg hrun
    simp only [badLibraryBase_iff, libraryBase_eq (s := s.atCommand dropDarkCode b) hrun] at hj
    have hw : q.waiting = s.waiting := rfl
    exact exec_takesCommand rfl h hj (waiting_ite hw hw)
  · intro h q base
    have hj := judgeAdoptLibrary_accepted (t := s.atCommand adoptLibraryCode b) (arg := b.arg) hrun
    simp only [badLibraryBase_iff, libraryBase_eq (s := s.atCommand adoptLibraryCode b) hrun] at hj
    have hw : q.waiting = s.waiting := rfl
    exact exec_takesCommand rfl h hj (waiting_ite hw hw)

/-! ## ABORT while BUSY (R63, R163, R164) -/

/-- An ABORT taken while BUSY, the write carried to DRAM. -/
theorem exec_abort_busy {b : CommandBurst} {c : LongCommand} {arg : BitVec 16} {t : State}
    (h : s.takesPlan (commandRequest abortCode b s)) (hc : s.cmd.inFlight = some (c, arg))
    (ht : abortBusy c b.arg (s.afterFields abortCode b) = t) (hw : t.waiting = s.waiting) :
    exec (.abort b) s = .next (t.carrying (commandRequest abortCode b s)) := by
  have hc' : (s.afterFields abortCode b).cmd.inFlight = some (c, arg) := hc
  have hcmd : takeCommand abortCode b.arg (s.afterFields abortCode b) = t := by
    rw [takeCommand, hc', ← ht]
    exact if_pos rfl
  rw [exec_abort, arrive_command h, hcmd]
  exact congrArg _ (setWaiting_nil_of (hw.trans h.1.1.2.1))

/-- The Bulk Mover's work that leaves nothing to end before the stop (log 13). -/
theorem stopsAtOnce_iff : s.stopsAtOnce = true ↔
    (∃ base parts lost step, s.bulk = some (.contextWrite base parts lost step false))
    ∨ (∃ base ended failed parts, s.bulk = some (.contextRead base ended ended failed parts))
    ∨ ∃ base, s.bulk = some (.libraryRead base false) := by
  unfold State.stopsAtOnce
  generalize s.bulk = o
  constructor
  · intro h
    rcases o with _ | op
    · cases h
    cases op with
    | contextWrite base parts lost step placed =>
      obtain rfl : placed = false := Bool.not_eq_true' _ ▸ h
      exact .inl ⟨_, _, _, _, rfl⟩
    | contextRead base placed ended failed parts =>
      obtain rfl : placed = ended := of_decide_eq_true h
      exact .inr (.inl ⟨_, _, _, _, rfl⟩)
    | libraryRead base placed =>
      obtain rfl : placed = false := Bool.not_eq_true' _ ▸ h
      exact .inr (.inr ⟨_, rfl⟩)
    | recordRead | planeWrite | libraryWrite => cases h
  · rintro (⟨_, _, _, _, rfl⟩ | ⟨_, _, _, _, rfl⟩ | ⟨_, rfl⟩)
    · rfl
    · exact decide_eq_true rfl
    · rfl

/-- Settles O27: the three ways an ABORT finds a command in flight; at once or not follows from the Bulk Mover's work. -/
theorem abortWhileBusy : Obligations.AbortWhileBusy := by
  intro s b c arg h hc r p q
  refine ⟨stopsAtOnce_iff, fun ha => ?_, fun ha hs => ?_, fun ha hs => ?_⟩
  · exact exec_abort_busy h hc (if_pos ha) rfl
  · refine exec_abort_busy h hc ((if_neg (Bool.eq_false_iff.mp ha)).trans (if_neg (Bool.eq_false_iff.mp hs))) rfl
  · have hstops := stopForAbort_stopsInto { q with cmd := { q.cmd with aborting := true } }
    exact ⟨_, exec_abort_busy h hc ((if_neg (Bool.eq_false_iff.mp ha)).trans (if_pos hs)) (stopForAbort_waiting _), hstops⟩

end Sys2Proof.Machine
end

section
/-! PROOFS. The protected regions (O6), and the values of the Dark Unit: dark values, exposure scales, plane values and the
choice of slots (O37, O38). -/

-- The proofs of this file are gone through one after another: the memory limit of the check leaves no room for more threads.
set_option deprecated.oldSectionVars true

namespace Sys2Proof.Machine

variable {s : State}

/-! ## The protected regions (R173, R175) -/

/-- Two spans overlap exactly when some address lies in both. -/
theorem Region.overlaps_iff (r t : Region) : r.overlaps t = true ↔
    ∃ a, (t.base ≤ a ∧ a < t.base + t.size) ∧ r.base ≤ a ∧ a < r.base + r.size := by
  rw [Region.overlaps, decide_eq_true_iff]
  constructor
  · rintro ⟨hr, ht, h1, h2⟩
    exact ⟨max r.base t.base, ⟨Nat.le_max_right _ _, Nat.max_lt.mpr ⟨h1, Nat.lt_add_of_pos_right ht⟩⟩,
      Nat.le_max_left _ _, Nat.max_lt.mpr ⟨Nat.lt_add_of_pos_right hr, h2⟩⟩
  · rintro ⟨a, ⟨h1, h2⟩, h3, h4⟩
    exact ⟨Nat.pos_of_lt_add_right (h3.trans_lt h4), Nat.pos_of_lt_add_right (h1.trans_lt h2), h3.trans_lt h2, h1.trans_lt h4⟩

/-- An address lies in a protected region. -/
def State.guards (s : State) (a : Nat) : Prop := ∃ r ∈ s.protectedRegions, r.base ≤ a ∧ a < r.base + r.size

theorem isProtected_iff {r : Request} :
    s.isProtected r = true ↔ ∃ a, r.addr.toNat ≤ a ∧ a < r.addr.toNat + 8 * r.beatCount ∧ s.guards a := by
  simp only [State.isProtected, List.any_eq_true, Region.overlaps_iff, State.guards]
  constructor
  · rintro ⟨t, ht, a, ha, hin⟩
    exact ⟨a, ha.1, ha.2, t, ht, hin⟩
  · rintro ⟨a, h1, h2, t, ht, hin⟩
    exact ⟨t, ht, a, ⟨h1, h2⟩, hin⟩

theorem accProtected_iff : s.accProtected = true ↔
    s.cmd.run = .running ∨ s.cmd.run = .ending ∨ s.inFlightIs .commitDark = true ∨ s.inFlightIs .resume = true := by
  simp only [State.accProtected, Bool.or_eq_true, decide_eq_true_iff, or_assoc]

/-- The accumulator window, empty where the geometry is not in the set (R169). -/
theorem mem_accWindow {a : Nat} : s.accWindow.base ≤ a ∧ a < s.accWindow.base + s.accWindow.size ↔
    (s.cmd.run ≠ .idle ∨ s.active.legal = true) ∧ s.active.accBase.toNat ≤ a
      ∧ a < s.active.accBase.toNat + s.active.width.toNat / 32 * (s.active.height.toNat / 32) * 12288 := by
  have hg : s.hasGeometry = true ↔ s.cmd.run ≠ .idle ∨ s.active.legal = true := by
    rw [State.hasGeometry, Bool.or_eq_true, decide_eq_true_iff]
  rw [← hg, State.accWindow]
  cases s.hasGeometry with
  | false => simp
  | true => simp [Frozen.accRegion, Frozen.tiles, Frozen.tw, Frozen.th]

/-- The checkpoint region that an operation guards (log 32). -/
theorem guardedCkpt_iff {base : BitVec 32} : s.guardedCkpt = some base ↔
    (∃ parts lost step placed, s.bulk = some (.contextWrite base parts lost step placed))
    ∨ (∃ placed ended failed parts, s.bulk = some (.contextRead base placed ended failed parts))
    ∨ (∃ job placed ended failed parts, s.bulk = some (.recordRead job placed ended failed parts)
        ∧ base = s.cmd.snap.ckptBase)
    ∨ (∃ job plane placed ended failed, s.bulk = some (.planeWrite job plane placed ended failed)
        ∧ base = s.cmd.snap.ckptBase)
    ∨ (∃ image placed, s.bulk = some (.libraryWrite base image placed))
    ∨ ∃ placed, s.bulk = some (.libraryRead base placed) := by
  unfold State.guardedCkpt
  generalize s.bulk = o
  constructor
  · intro h
    rcases o with _ | op
    · cases h
    cases op with
    | contextWrite =>
      exact .inl ⟨_, _, _, _, congrArg (fun b => some (BulkOp.contextWrite b _ _ _ _)) (Option.some.inj h)⟩
    | contextRead =>
      exact .inr (.inl ⟨_, _, _, _, congrArg (fun b => some (BulkOp.contextRead b _ _ _ _)) (Option.some.inj h)⟩)
    | recordRead => exact .inr (.inr (.inl ⟨_, _, _, _, _, rfl, (Option.some.inj h).symm⟩))
    | planeWrite => exact .inr (.inr (.inr (.inl ⟨_, _, _, _, _, rfl, (Option.some.inj h).symm⟩)))
    | libraryWrite =>
      exact .inr (.inr (.inr (.inr (.inl ⟨_, _, congrArg (fun b => some (BulkOp.libraryWrite b _ _)) (Option.some.inj h)⟩))))
    | libraryRead =>
      exact .inr (.inr (.inr (.inr (.inr ⟨_, congrArg (fun b => some (BulkOp.libraryRead b _)) (Option.some.inj h)⟩))))
  · rintro (⟨_, _, _, _, rfl⟩ | ⟨_, _, _, _, rfl⟩ | ⟨_, _, _, _, _, rfl, rfl⟩ | ⟨_, _, _, _, _, rfl, rfl⟩ | ⟨_, _, rfl⟩ |
      ⟨_, rfl⟩) <;> rfl

/-- The plane of a slot is protected: that of a BUILDING slot, and of a matching one while R54 says so (log 40). -/
def State.guardsPlane (s : State) (x : Slot) : Prop := x.building = true
  ∨ (s.cmd.mode = .light ∧ s.cmd.snap.darkUse = true ∧ (s.cmd.run = .running ∨ s.cmd.run = .ending)
    ∧ x.building = false ∧ x.width = s.cmd.snap.width ∧ x.height = s.cmd.snap.height)

theorem guardsPlane_iff {x : Slot} :
    x.building = true ∨ s.planesProtected = true ∧ x.fits s.cmd.snap = true ↔ s.guardsPlane x := by
  simp only [State.guardsPlane, State.planesProtected, Slot.fits, Bool.or_eq_true, Bool.and_eq_true, decide_eq_true_iff,
    Bool.not_eq_true', and_assoc]

theorem mem_protectedPlanes {r : Region} :
    r ∈ s.protectedPlanes ↔ ∃ k x, k < 4 ∧ s.dark.slot k = some x ∧ r = x.plane ∧ s.guardsPlane x := by
  simp only [State.protectedPlanes, List.mem_filterMap, List.mem_range]
  refine exists_congr fun k => ?_
  cases s.dark.slot k with
  | none => simp
  | some x => simp [guardsPlane_iff, eq_comm (a := r), and_comm (b := _ = r)]

/-- An address in a protected plane, the extent of a plane written out (R43). -/
theorem guardedPlanes_iff {a : Nat} : (∃ r ∈ s.protectedPlanes, r.base ≤ a ∧ a < r.base + r.size) ↔
    ∃ k x, k < 4 ∧ s.dark.slot k = some x ∧ x.base.toNat ≤ a
      ∧ a < x.base.toNat + x.width.toNat / 32 * (x.height.toNat / 32) * 2048 ∧ s.guardsPlane x := by
  constructor
  · rintro ⟨_, hr, h1, h2⟩
    obtain ⟨k, x, hk, hx, rfl, hp⟩ := mem_protectedPlanes.mp hr
    exact ⟨k, x, hk, hx, h1, h2, hp⟩
  · rintro ⟨k, x, hk, hx, h1, h2, hp⟩
    exact ⟨_, mem_protectedPlanes.mpr ⟨k, x, hk, hx, rfl, hp⟩, h1, h2⟩

/-- The three kinds of protected region: the accumulator window, a guarded checkpoint region, a plane (R175). -/
theorem guards_iff {a : Nat} : s.guards a ↔
    (s.accProtected = true ∧ s.accWindow.base ≤ a ∧ a < s.accWindow.base + s.accWindow.size)
    ∨ (∃ base : BitVec 32, base.toNat ≤ a ∧ a < base.toNat + 8192 ∧ s.guardedCkpt = some base)
    ∨ ∃ r ∈ s.protectedPlanes, r.base ≤ a ∧ a < r.base + r.size := by
  simp only [State.guards, State.protectedRegions, List.mem_append, or_and_right, exists_or, or_assoc]
  refine or_congr ?_ (or_congr ?_ Iff.rfl)
  · cases s.accProtected <;> simp
  · cases s.guardedCkpt <;> simp

/-- Settles O6: a common byte of the write and of one of the three kinds of region. -/
theorem protectedRegionsOfTheTable : Obligations.ProtectedRegionsOfTheTable := by
  intro s r f
  refine isProtected_iff.trans (exists_congr fun a => and_congr_right' (and_congr_right' (guards_iff.trans ?_)))
  exact or_congr (and_congr accProtected_iff mem_accWindow)
    (or_congr (exists_congr fun base => and_congr_right' (and_congr_right' guardedCkpt_iff)) guardedPlanes_iff)

/-! ## Dark values, scales and plane values (R48, R52, R53, R59) -/

theorem scaledDark_le (d q : BitVec 16) : scaledDark d q ≤ 65535 := Nat.min_le_left _ _

/-- The blend of two scaled values lies between them, so it fits 16 bits (R53). -/
theorem blend_lt {a b w : Nat} (ha : a ≤ 65535) (hb : b ≤ 65535) (hw : w ≤ 256) :
    (a * (256 - w) + b * w + 128) / 256 < 65536 := by
  have h : a * (256 - w) + b * w ≤ 65535 * 256 := by
    calc a * (256 - w) + b * w ≤ 65535 * (256 - w) + 65535 * w :=
          Nat.add_le_add (Nat.mul_le_mul_right _ ha) (Nat.mul_le_mul_right _ hb)
      _ = 65535 * 256 := by rw [← Nat.mul_add, Nat.sub_add_cancel hw]
  exact Nat.div_lt_of_lt_mul (Nat.lt_of_le_of_lt (Nat.add_le_add_right h 128) (by decide))

theorem darkOf_one {d q : BitVec 16} {w : BitVec 8} (h : d ≠ 0xFFFF) :
    darkOf (some (d, q)) none w = .level (BitVec.ofNat 16 (scaledDark d q)) := if_neg h

theorem darkOf_two {d q e p : BitVec 16} {w : BitVec 8} (hd : d ≠ 0xFFFF) (he : e ≠ 0xFFFF) :
    darkOf (some (d, q)) (some (e, p)) w =
      .level (BitVec.ofNat 16 ((scaledDark d q * (256 - w.toNat) + scaledDark e p * w.toNat + 128) / 256)) :=
  if_neg (not_or.mpr ⟨hd, he⟩)

/-- The exposure scale is a quotient rounded half-up, held at 65535 (R48). -/
theorem exposureScale_toNat {exposure eref : BitVec 32} (h : eref ≠ 0) : (exposureScale exposure eref).toNat =
    min 65535 ((2 * (exposure.toNat * 4096) + eref.toNat) / (2 * eref.toNat)) := by
  exact (congrArg BitVec.toNat (if_neg h)).trans (Nat.mod_eq_of_lt (Nat.lt_of_le_of_lt (Nat.min_le_left _ _) (by decide)))

/-- The plane value of a record that holds samples, from its mean (R59). -/
theorem planeValue_toNat {hot : BitVec 16} {r : Rec} (h : r.n ≠ 0) :
    (planeValue hot r).toNat = if hot.toNat ≤ recMean r then 65535 else min (recMean r) 65534 := by
  have hle : min (recMean r) 65534 < 65536 := Nat.lt_of_le_of_lt (Nat.min_le_right _ _) (by decide)
  refine (congrArg BitVec.toNat (if_neg h)).trans ((apply_ite BitVec.toNat _ _ _).trans (if_congr Iff.rfl rfl ?_))
  exact Nat.mod_eq_of_lt hle

/-- A word other than 0 is a positive number. -/
theorem toNat_pos_of_ne {w : Nat} {v : BitVec w} (h : v ≠ 0) : 0 < v.toNat :=
  Nat.pos_of_ne_zero fun hz => h (BitVec.eq_of_toNat_eq (by simpa using hz))

/-- Settles O37: dark values by the slots present, the scale as a quotient, the plane value by the mean. -/
theorem darkAndPlaneValues : Obligations.DarkAndPlaneValues := by
  refine ⟨fun d e q p w => ?_, fun exposure eref p => ?_, fun hot r => ?_⟩
  · intro ds es
    refine ⟨rfl, fun h => if_pos h, fun h => ⟨_, darkOf_one h, ?_⟩, fun h => if_pos h,
      fun hd he => ⟨_, darkOf_two hd he, ?_⟩⟩
    · exact Nat.mod_eq_of_lt (Nat.lt_succ_of_le (scaledDark_le d q))
    · exact Nat.mod_eq_of_lt (blend_lt (scaledDark_le d q) (scaledDark_le e p) w.isLt.le)
  · refine ⟨rfl, fun h => if_pos h, fun h => ⟨_, ?_, ?_, exposureScale_toNat h⟩⟩
    · rw [Nat.mul_comm 2, Nat.mul_assoc]
      exact Nat.div_mul_le_self _ _
    · rw [Nat.mul_comm 2 (_ + 1), Nat.mul_assoc]
      exact (Nat.lt_div_mul_add (Nat.mul_pos Nat.two_pos (toNat_pos_of_ne h))).trans_eq (Nat.succ_mul _ _).symm
  · refine ⟨fun h => if_pos h, fun h => ?_⟩
    obtain ⟨hnear, htie⟩ := halfEven_spec r.sum.toNat r.n.toNat (toNat_pos_of_ne h)
    exact ⟨recMean r, hnear, htie, planeValue_toNat h⟩

/-! ## The choice of slots (R46) -/

section Choice

variable {α : Type} [LinearOrder α] {ok : Nat × Slot → Prop} [DecidablePred ok] {key : Nat × Slot → α}
  {l : List (Nat × Slot)} {b : Option (Nat × Slot)}

/-- The better of a candidate so far and the next slot: one that qualifies, with a lesser key; the earlier keeps a tie. -/
def pickSlot (ok : Nat × Slot → Prop) [DecidablePred ok] (key : Nat × Slot → α) (best : Option (Nat × Slot))
    (p : Nat × Slot) : Option (Nat × Slot) :=
  if ok p then
    match best with
    | some q => if key p < key q then some p else best
    | none => some p
  else best

theorem betterUpper_eq (t : Int) :
    betterUpper t = pickSlot (fun p => t < p.2.temperature.toInt) fun p => p.2.temperature.toInt := rfl

/-- The lower candidate has the greatest temperature: the least in the reverse order. -/
theorem betterLower_eq (t : Int) :
    betterLower t = pickSlot (fun p => p.2.temperature.toInt ≤ t) fun p => OrderDual.toDual p.2.temperature.toInt := rfl

/-- `b` is the qualifying slot of least key, the lowest-numbered of several, or none where none qualifies. -/
structure BestSlot (ok : Nat × Slot → Prop) (key : Nat × Slot → α) (l : List (Nat × Slot)) (b : Option (Nat × Slot)) :
    Prop where
  mem : ∀ p, b = some p → p ∈ l ∧ ok p
  least : ∀ p, b = some p → ∀ q, q ∈ l → ok q → key p < key q ∨ (key q = key p ∧ p.1 ≤ q.1)
  none : b = none → ∀ q, q ∈ l → ¬ok q

theorem BestSlot.of_some {p : Nat × Slot} (hp : p ∈ l) (hok : ok p)
    (h : ∀ q, q ∈ l → ok q → key p < key q ∨ (key q = key p ∧ p.1 ≤ q.1)) : BestSlot ok key l (some p) :=
  ⟨fun _ hy => Option.some.inj hy ▸ ⟨hp, hok⟩, fun _ hy => Option.some.inj hy ▸ h,
    fun hn => absurd hn (Option.some_ne_none p)⟩

/-- One slot more, of a higher number than those before it. -/
theorem BestSlot.snoc (h : BestSlot ok key l b) {x : Nat × Slot} (hx : ∀ q, q ∈ l → q.1 < x.1) :
    BestSlot ok key (l ++ [x]) (pickSlot ok key b x) := by
  have hall {P : Nat × Slot → Prop} (hl : ∀ q, q ∈ l → P q) (hP : P x) : ∀ q, q ∈ l ++ [x] → P q := fun q hq =>
    (List.mem_append.mp hq).elim (hl q) fun h => List.mem_singleton.mp h ▸ hP
  have hself : x ∈ l ++ [x] := List.mem_append_right l (List.mem_singleton_self x)
  by_cases hox : ok x
  · unfold pickSlot
    rw [if_pos hox]
    cases b with
    | none => exact .of_some hself hox (hall (fun q hq hoq => absurd hoq (h.none rfl q hq)) fun _ => .inr ⟨rfl, le_rfl⟩)
    | some p =>
      obtain ⟨hp, hop⟩ := h.mem p rfl
      have hlp := h.least p rfl
      dsimp only
      split
      next hlt =>
        exact .of_some hself hox (hall (fun q hq hoq => .inl ((hlp q hq hoq).elim hlt.trans fun h => h.1 ▸ hlt))
          fun _ => .inr ⟨rfl, le_rfl⟩)
      next hge =>
        exact .of_some (List.mem_append_left _ hp) hop (hall hlp fun _ =>
          (lt_or_eq_of_le (not_lt.mp hge)).imp_right fun h => ⟨h.symm, (hx p hp).le⟩)
  · unfold pickSlot
    rw [if_neg hox]
    exact ⟨fun p hp => ⟨List.mem_append_left _ (h.mem p hp).1, (h.mem p hp).2⟩,
      fun p hp => hall (h.least p hp) fun h => absurd h hox, fun hn => hall (h.none hn) hox⟩

theorem bestSlot_foldl (hl : l.Pairwise fun p q => p.1 < q.1) : BestSlot ok key l (l.foldl (pickSlot ok key) none) := by
  induction l using List.reverseRecOn with
  | nil =>
    exact ⟨fun p h => absurd h.symm (Option.some_ne_none p), fun p h => absurd h.symm (Option.some_ne_none p),
      fun _ _ h => absurd h List.not_mem_nil⟩
  | append_singleton l x ih =>
    rw [List.pairwise_append] at hl
    rw [List.foldl_append]
    exact (ih hl.1).snoc fun q hq => hl.2.2 q hq x (List.mem_singleton_self x)

end Choice

/-- The matching slots stand in rising order (R44). -/
theorem matching_pairwise (d : DarkUnit) (f : Frozen) : (d.matching f).Pairwise fun p q => p.1 < q.1 := by
  have hfst {i : Nat} {p : Nat × Slot} (h : (match d.slot i with
      | some x => if x.fits f then some (i, x) else none
      | none => none) = some p) : p.1 = i := by
    split at h
    · split_ifs at h
      cases h; rfl
    · cases h
  refine List.Pairwise.filterMap _ (fun i j hij p hp q hq => ?_) List.pairwise_lt_range
  rw [hfst hp, hfst hq]
  exact hij

/-- The weight between two bracketing temperatures fits its 8 bits (R46). -/
theorem slotWeight_toNat {t ta tb : Int} (ha : ta < t) (hb : t < tb) :
    ((slotWeight t ta tb).toNat : Int) = Int.fdiv ((t - ta) * 256) (tb - ta) := by
  have hd : 0 < tb - ta := sub_pos.mpr (ha.trans hb)
  have h0 : 0 ≤ (t - ta) * 256 / (tb - ta) := Int.ediv_nonneg (mul_nonneg (sub_nonneg.mpr ha.le) (by decide)) hd.le
  have h1 : (t - ta) * 256 / (tb - ta) < 256 := by
    refine Int.ediv_lt_of_lt_mul hd ?_
    rw [mul_comm]
    exact mul_lt_mul_of_pos_left (sub_lt_sub_right hb ta) (by decide)
  rw [slotWeight, BitVec.toNat_ofInt, Int.fdiv_eq_ediv_of_nonneg _ hd.le]
  exact (Int.toNat_of_nonneg (Int.emod_nonneg _ (by decide))).trans (Int.emod_eq_of_lt h0 h1)

section Cases

variable {slots : List (Nat × Slot)} {temperature : BitVec 16} {exposure : BitVec 32} {a c : Nat × Slot}

/-- The four cases of the choice, by the two candidates (R46). -/
theorem chooseSlots_at (ha : lowerSlot temperature.toInt slots = some a) (ht : a.2.temperature.toInt = temperature.toInt) :
    chooseSlots slots temperature exposure = (⟨some (useSlot exposure a), none, 0⟩, false) := by
  dsimp only [chooseSlots]
  rw [ha]
  cases upperSlot temperature.toInt slots with
  | none => exact congrArg (Prod.mk _) (decide_eq_false (not_not_intro ht))
  | some c => exact if_pos ht

theorem chooseSlots_between (ha : lowerSlot temperature.toInt slots = some a)
    (hc : upperSlot temperature.toInt slots = some c) (ht : a.2.temperature.toInt ≠ temperature.toInt) :
    chooseSlots slots temperature exposure = (⟨some (useSlot exposure a), some (useSlot exposure c),
      slotWeight temperature.toInt a.2.temperature.toInt c.2.temperature.toInt⟩, false) := by
  dsimp only [chooseSlots]
  rw [ha, hc]
  exact if_neg ht

theorem chooseSlots_below (ha : lowerSlot temperature.toInt slots = none)
    (hc : upperSlot temperature.toInt slots = some c) :
    chooseSlots slots temperature exposure = (⟨some (useSlot exposure c), none, 0⟩, true) := by
  dsimp only [chooseSlots]
  rw [ha, hc]

theorem chooseSlots_above (ha : lowerSlot temperature.toInt slots = some a)
    (hc : upperSlot temperature.toInt slots = none) (ht : a.2.temperature.toInt ≠ temperature.toInt) :
    chooseSlots slots temperature exposure = (⟨some (useSlot exposure a), none, 0⟩, true) := by
  dsimp only [chooseSlots]
  rw [ha, hc]
  exact congrArg (Prod.mk _) (decide_eq_true ht)

end Cases

/-- The lower candidate is the best of the slots not above the temperature, the upper the best of those above (R46). -/
theorem bestSlot_lower {l : List (Nat × Slot)} (h : l.Pairwise fun p q => p.1 < q.1) (t : Int) :
    BestSlot (fun p => p.2.temperature.toInt ≤ t) (fun p => OrderDual.toDual p.2.temperature.toInt) l (lowerSlot t l) :=
  bestSlot_foldl h

theorem bestSlot_upper {l : List (Nat × Slot)} (h : l.Pairwise fun p q => p.1 < q.1) (t : Int) :
    BestSlot (fun p => t < p.2.temperature.toInt) (fun p => p.2.temperature.toInt) l (upperSlot t l) :=
  bestSlot_foldl h

/-- Settles O38: the two candidates are best slots, and the choice goes by them. -/
theorem slotChoiceOfASubframe : Obligations.SlotChoiceOfASubframe := by
  intro d f temperature exposure hne t temp
  obtain ⟨hlmem, hlleast, hlnone⟩ := bestSlot_lower (matching_pairwise d f) t
  obtain ⟨humem, huleast, hunone⟩ := bestSlot_upper (matching_pairwise d f) t
  refine ⟨lowerSlot t (d.matching f), upperSlot t (d.matching f), fun p hp => ?_, fun p hp => ?_,
    fun h q hq => lt_of_not_ge (hlnone h q hq), fun h q hq => le_of_not_gt (hunone h q hq), ?_,
    fun a ha => chooseSlots_at ha, fun a c ha hc hlt => ⟨_, ?_, chooseSlots_between ha hc hlt.ne⟩,
    fun c ha hc => chooseSlots_below ha hc, fun a ha hc hlt => chooseSlots_above ha hc hlt.ne⟩
  · exact ⟨(hlmem p hp).1, (hlmem p hp).2, hlleast p hp⟩
  · exact ⟨(humem p hp).1, (humem p hp).2, huleast p hp⟩
  · obtain ⟨q, hq⟩ := List.exists_mem_of_ne_nil _ hne
    by_cases hqt : temp q ≤ t
    · exact .inl fun h => hlnone h q hq hqt
    · exact .inr fun h => hunone h q hq (lt_of_not_ge hqt)
  · exact slotWeight_toNat hlt (humem c hc).2

end Sys2Proof.Machine
end

section
/-! PROOFS. The transactions of the dark library end: the record reads and plane writes of COMMIT_DARK (O52, O53), the library
record write and read (O54). -/

-- The proofs of this file are gone through one after another: the memory limit of the check leaves no room for more threads.
set_option deprecated.oldSectionVars true

namespace Sys2Proof.Machine

variable {s : State}

/-! ## Fields of an image -/

/-- A span of bits of a number held in a word. -/
theorem extractLsb'_ofNat {w a n : Nat} (h : a + n ≤ w) (v : Nat) :
    (BitVec.ofNat w v).extractLsb' a n = BitVec.ofNat n (v / 2 ^ a) := by
  refine BitVec.eq_of_getLsbD_eq fun i hi => ?_
  rw [BitVec.getLsbD_extractLsb', BitVec.getLsbD_ofNat, BitVec.getLsbD_ofNat, ← Nat.shiftRight_eq_div_pow,
    Nat.testBit_shiftRight, decide_eq_true hi,
    decide_eq_true ((Nat.add_lt_add_left hi a).trans_le h), Bool.true_and, Bool.true_and]

/-- A field of the rest of an image from byte `o` on. -/
theorem fieldAt_div (image o off len : Nat) : fieldAt (image / 2 ^ (8 * o)) off len = fieldAt image (o + off) len := by
  rw [fieldAt, fieldAt, Nat.div_div_eq_div_mul, ← Nat.pow_add, Nat.mul_add]

/-- The words of an image are its two-byte fields. -/
theorem wordSum_eq (n image : Nat) : wordSum n image = ((List.range n).map fun i => fieldAt image (2 * i) 2).sum := by
  rw [wordSum, List.sum_eq_foldr, List.foldr_map]
  simp only [fieldAt, ← Nat.mul_assoc]
  rfl

/-- A table set at the indices below `n`, in rising order. -/
theorem Table.get_foldl_range {α : Type} [DecidableEq α] (d : α) (f : Nat → α) (n k : Nat) :
    Table.get d ((List.range n).foldl (fun t i => Table.set d t i (f i)) []) k = if k < n then f k else d := by
  induction n with
  | zero => rfl
  | succ n ih =>
    rw [List.range_succ, List.foldl_append, List.foldl_cons, List.foldl_nil, Table.get_set, ih]
    by_cases h : k = n
    · rw [if_pos h, if_pos (h ▸ Nat.lt_succ_self k), h]
    · rw [if_neg h]
      exact if_congr (Nat.lt_succ_iff_lt_or_eq.trans (or_iff_left h)).symm rfl rfl

/-! ## The library record (R66) -/

/-- The slot that entry `k` of a library record makes, its bytes counted from the start of the record (R66, R192). -/
theorem slotOfEntry_eq (image k : Nat) : slotOfEntry image k =
    if fieldAt image (32 * k) 1 = 2 ∧ ((List.range 16).map fun i => fieldAt image (32 * k + 2 * i) 2).sum % 65536 = 0 then
      some ⟨false, BitVec.ofNat 16 (fieldAt image (32 * k + 2) 2), BitVec.ofNat 32 (fieldAt image (32 * k + 4) 4),
        BitVec.ofNat 16 (fieldAt image (32 * k + 8) 2), BitVec.ofNat 16 (fieldAt image (32 * k + 10) 2),
        BitVec.ofNat 16 (fieldAt image (32 * k + 12) 2), BitVec.ofNat 32 (fieldAt image (32 * k + 16) 4)⟩
    else none := by
  have he : 256 * k = 8 * (32 * k) := Nat.mul_assoc 8 32 k
  simp only [slotOfEntry, he, wordSum_eq, fieldAt_div, Nat.add_zero]

theorem get_slotsOfLibrary {image k : Nat} (hk : k < 4) :
    Table.get none (slotsOfLibrary image) k = slotOfEntry image k := by
  rw [slotsOfLibrary, Table.get_foldl_range, if_pos hk]

/-! ## The library record write and read end (R62 to R67) -/

section Library

variable {index : Nat} {resp : Response} {data : Chunk} {base : BitVec 32} {image : Chunk}

theorem exec_libraryWriteEnd (hf : s.flying index .libraryWrite) (hb : s.bulk = some (.libraryWrite base image true)) :
    exec (.libraryWriteEnd index resp) s = .next (settle (libraryWriteAnswered resp (s.landed index))) := by
  obtain ⟨txn, ht⟩ := flightOf_flying hf (kind := Purpose.isLibraryWrite) rfl
  show execLibraryWriteEnd index resp s = _
  unfold execLibraryWriteEnd
  rw [ht, hb]
  rfl

theorem exec_libraryReadEnd (hf : s.flying index .libraryRead) (hb : s.bulk = some (.libraryRead base true)) :
    exec (.libraryReadEnd index resp data) s = .next (settle (libraryReadAnswered resp data (s.landed index))) := by
  obtain ⟨txn, ht⟩ := flightOf_flying hf (kind := Purpose.isLibraryRead) rfl
  show execLibraryReadEnd index resp data s = _
  unfold execLibraryReadEnd
  rw [ht, hb]
  rfl

/-- Without an ABORT pending the write's end is the command's (R62, R65). -/
theorem libraryWriteAnswered_done (ha : s.cmd.aborting = false) : libraryWriteAnswered resp s =
    if resp = .ok then { s with bulk := none }.withOutcome .done
    else (raise .memoryFault { s with bulk := none }).withOutcome .memoryFault := by
  cases resp <;> exact if_neg (Bool.eq_false_iff.mp ha)

theorem libraryWriteAnswered_aborting (ha : s.cmd.aborting = true) : libraryWriteAnswered resp s =
    stopForAbort (if resp = .ok then s else raise .memoryFault s) := by
  cases resp <;> exact if_pos ha

/-- Without an ABORT pending the read's end is the command's, the slots replaced after a good one (R66, R67). -/
theorem libraryReadAnswered_done (ha : s.cmd.aborting = false) : libraryReadAnswered resp data s =
    if resp = .ok then
      { s with bulk := none, dark := { s.dark with slots := slotsOfLibrary data.toNat } }.withOutcome .done
    else (raise .memoryFault { s with bulk := none }).withOutcome .memoryFault := by
  cases resp <;> exact if_neg (Bool.eq_false_iff.mp ha)

theorem libraryReadAnswered_aborting (ha : s.cmd.aborting = true) : libraryReadAnswered resp data s =
    stopForAbort (if resp = .ok then s else raise .memoryFault s) := by
  cases resp <;> exact if_pos ha

end Library

/-- Settles O54: the outcome, or the stop for an ABORT; the slots of a good read are those of the record's entries. -/
theorem libraryAccessEnds : Obligations.LibraryAccessEnds := by
  intro s index resp data base u faulted stopped
  have hstopped : stopped.waiting = s.waiting := waiting_ite rfl rfl
  have stops {i : Instr} (he : exec i s = .next (settle (stopForAbort stopped))) :
      ∃ v, s.settlesFrom i v ∧ stopped.stopsInto v :=
    ⟨_, settlesFrom_of he ((stopForAbort_waiting _).trans hstopped), stopForAbort_stopsInto _⟩
  refine ⟨fun image hf hb => ?_, fun hf hb => ?_⟩
  · have hexec := exec_libraryWriteEnd (resp := resp) hf hb
    refine ⟨fun ha => ?_, fun ha => ?_⟩
    · rw [libraryWriteAnswered_done (s := s.landed index) ha] at hexec
      exact settlesFrom_of hexec (waiting_ite rfl rfl)
    · rw [libraryWriteAnswered_aborting (s := s.landed index) ha] at hexec
      exact stops hexec
  · have hexec := exec_libraryReadEnd (resp := resp) (data := data) hf hb
    refine ⟨fun ha => ?_, fun ha => ?_⟩
    · rw [libraryReadAnswered_aborting (s := s.landed index) ha] at hexec
      exact stops hexec
    · rw [libraryReadAnswered_done (s := s.landed index) ha] at hexec
      refine ⟨slotsOfLibrary data.toNat, settlesFrom_of hexec (waiting_ite rfl rfl), fun k hk => ?_⟩
      rw [get_slotsOfLibrary hk, slotOfEntry_eq]

/-! ## The record reads of a COMMIT_DARK tile (R59, R60) -/

/-- A list of words as the digits of a number: word `p` is digit `p`. -/
theorem foldr_word_digit (values : List (BitVec 16)) (p : Nat) :
    BitVec.ofNat 16 (values.foldr (fun v rest => v.toNat + 65536 * rest) 0 / 2 ^ (16 * p)) = values[p]?.getD 0 := by
  induction values generalizing p with
  | nil => exact congrArg (BitVec.ofNat 16) (Nat.zero_div _)
  | cons v rest ih =>
    rw [List.foldr_cons]
    generalize rest.foldr (fun v rest => v.toNat + 65536 * rest) 0 = n at ih ⊢
    cases p with
    | zero =>
      rw [Nat.mul_zero, Nat.pow_zero, Nat.div_one]
      exact BitVec.eq_of_toNat_eq ((Nat.add_mul_mod_self_left v.toNat 65536 n).trans (Nat.mod_eq_of_lt v.isLt))
    | succ p =>
      have hn : (v.toNat + 65536 * n) / 65536 = n := by
        rw [Nat.add_mul_div_left _ _ (Nat.succ_pos _), Nat.div_eq_of_lt v.isLt, Nat.zero_add]
      rw [Nat.mul_succ, Nat.pow_add, Nat.mul_comm (2 ^ _), ← Nat.div_div_eq_div_mul]
      exact (congrArg (fun m => BitVec.ofNat 16 (m / 2 ^ (16 * p))) hn).trans (ih p)

/-- The plane parts of a tile's values hold them in order, 64 to a part (R58). -/
theorem planeParts_value (values : List (BitVec 16)) {pos : Nat} (hp : pos < 1024) :
    ((planeParts values)[pos / 64]?.getD 0).extractLsb' (16 * (pos % 64)) 16 = values[pos]?.getD 0 := by
  have hpart : pos / 64 < 16 := Nat.div_lt_of_lt_mul hp
  have hbit : 16 * (pos % 64) + 16 ≤ 1024 := Nat.mul_le_mul_left 16 (Nat.mod_lt pos (by decide : 64 > 0))
  have hpos : 1024 * (pos / 64) + 16 * (pos % 64) = 16 * pos := by
    rw [Nat.mul_assoc 16 64, ← Nat.mul_add, Nat.div_add_mod]
  rw [planeParts, List.getElem?_map, List.getElem?_range hpart, Option.map_some, Option.getD_some, partOf,
    extractLsb'_ofNat hbit, Nat.div_div_eq_div_mul, ← Nat.pow_add, hpos, foldr_word_digit]

theorem planeParts_length (values : List (BitVec 16)) : (planeParts values).length = 16 := by
  rw [planeParts, List.length_map, List.length_range]

theorem tileRecords_getElem? (image : Nat) {pos : Nat} (hp : pos < 1024) :
    (tileRecords image)[pos]? = some (Rec.ofNat (image / 2 ^ (96 * pos))) := by
  rw [tileRecords, List.getElem?_map, List.getElem?_range hp]
  rfl

/-- The plane parts of a tile hold the plane values of its records in order (R58, R59). -/
theorem planeParts_tileRecords (image : Nat) (hot : BitVec 16) {pos : Nat} (hp : pos < 1024) :
    ((planeParts ((tileRecords image).map (planeValue hot)))[pos / 64]?.getD 0).extractLsb' (16 * (pos % 64)) 16 =
      planeValue hot (Rec.ofNat (image / 2 ^ (96 * pos))) := by
  rw [planeParts_value _ hp, List.getElem?_map, tileRecords_getElem? _ hp]
  rfl

/-- A record with samples is hot marked exactly when its mean reaches the threshold (R59). -/
theorem planeValue_hot {hot : BitVec 16} {r : Rec} (h : r.n ≠ 0) : planeValue hot r = 0xFFFF ↔ hot.toNat ≤ recMean r := by
  have hv := planeValue_toNat (hot := hot) h
  constructor
  · intro he
    by_contra hlt
    have hle : (planeValue hot r).toNat ≤ 65534 := (hv.trans (if_neg hlt)).le.trans (Nat.min_le_right _ _)
    exact absurd (he ▸ hle) (by decide)
  · intro hle
    exact BitVec.eq_of_toNat_eq (hv.trans (if_pos hle))

section RecordRead

variable {index part placed ended : Nat} {resp : Response} {data : Chunk} {job : Commit} {failed : Bool}
  {parts : List (Nat × Chunk)}

theorem exec_commitRecordReadEnd (hf : s.flying index (.recordRead part))
    (hb : s.bulk = some (.recordRead job placed ended failed parts)) : exec (.commitRecordReadEnd index resp data) s =
      .next (settle (recordReadAnswered job placed ended failed parts part resp data (s.landed index))) := by
  obtain ⟨txn, ht⟩ := flightOf_flying hf (kind := Purpose.isRecordRead) rfl
  show execCommitRecordReadEnd index resp data s = _
  unfold execCommitRecordReadEnd
  rw [ht, hb]
  rfl

/-- A record read that is not the last of its tile is noted. -/
theorem recordReadAnswered_noted (h : ended + 1 ≠ 96) : recordReadAnswered job placed ended failed parts part resp data s =
    { s with bulk := some (.recordRead job placed (ended + 1) (failed || decide (resp = .error))
      (if resp = .ok then Table.set 0 parts part data else parts)) } := if_neg h

theorem recordReadAnswered_last (h : ended + 1 = 96) : recordReadAnswered job placed ended failed parts part resp data s =
    formTile job (failed || decide (resp = .error)) (if resp = .ok then Table.set 0 parts part data else parts) s := if_pos h

end RecordRead

/-- A tile read in error: its plane is all hot marks (R60). -/
theorem formTile_failed (job : Commit) (parts : List (Nat × Chunk)) : formTile job true parts s =
    raise .memoryFault { s with
      bulk := some (.planeWrite job (List.replicate 16 (BitVec.allOnes 1024)) 0 0 false)
      rep := { s.rep with hotMarked := satAdd s.rep.hotMarked 1024 } } := by
  have hz : satAdd s.rep.uncovered 0 = s.rep.uncovered := satAdd_zero _
  exact congrArg (fun u => raise .memoryFault { s with
    bulk := some (.planeWrite job (List.replicate 16 (BitVec.allOnes 1024)) 0 0 false)
    rep := { s.rep with hotMarked := satAdd s.rep.hotMarked 1024, uncovered := u } }) hz

/-- The records of a tile as they are counted: how many satisfy a test. -/
theorem tileRecords_filter (image : Nat) (test : Rec → Bool) : ((tileRecords image).filter test).length =
    (List.range 1024).countP fun pos => test (Rec.ofNat (image / 2 ^ (96 * pos))) := by
  rw [← List.countP_eq_length_filter, tileRecords, List.countP_map]
  rfl

/-- Record `pos` of the tile whose parts have been read. -/
def recordIn (parts : List (Nat × Chunk)) (pos : Nat) : Rec := Rec.ofNat (imageOfParts 96 parts / 2 ^ (96 * pos))

/-- A tile read without error: each record gives its plane value, the hot ones and those with n 0 are counted (R59). -/
theorem formTile_formed (job : Commit) (parts : List (Nat × Chunk)) : formTile job false parts s =
    { s with
      bulk := some (.planeWrite job (planeParts ((tileRecords (imageOfParts 96 parts)).map (planeValue job.hot))) 0 0 false)
      rep := { s.rep with
        hotMarked := satAdd s.rep.hotMarked ((List.range 1024).countP fun pos =>
          decide ((recordIn parts pos).n ≠ 0) && decide (planeValue job.hot (recordIn parts pos) = 0xFFFF))
        uncovered := satAdd s.rep.uncovered ((List.range 1024).countP fun pos => decide ((recordIn parts pos).n = 0)) } } := by
  have hhot (r : Rec) : decide (r.n ≠ 0 ∧ job.hot.toNat ≤ recMean r)
      = (decide (r.n ≠ 0) && decide (planeValue job.hot r = 0xFFFF)) := by
    rw [Bool.decide_and]
    by_cases hn : r.n = 0
    · simp [hn]
    · simp only [planeValue_hot hn]
  simp only [formTile, tileRecords_filter, hhot]
  rfl

theorem formTile_waiting (job : Commit) (failed : Bool) (parts : List (Nat × Chunk)) :
    (formTile job failed parts s).waiting = s.waiting := by
  exact waiting_ite ((raise_waiting _ _).trans (State.setRep_waiting _ _)) (State.setRep_waiting _ _)

/-- Settles O52: the read is noted, or the tile's values are formed or all hot marks. -/
theorem recordReadEnds : Obligations.RecordReadEnds := by
  intro s index part resp data job placed ended failed parts hf hb failed' parts' record hot uncovered out
  have hexec := exec_commitRecordReadEnd (resp := resp) (data := data) hf hb
  refine ⟨fun h => ?_, fun h hfail => ?_, fun h hfail => ?_⟩
  · rw [recordReadAnswered_noted h] at hexec
    exact settlesFrom_of hexec rfl
  · rw [recordReadAnswered_last h, show (failed || decide (resp = .error)) = true from hfail] at hexec
    have hout := settlesFrom_of hexec (formTile_waiting job true parts')
    rw [formTile_failed] at hout
    exact hout
  · rw [recordReadAnswered_last h, show (failed || decide (resp = .error)) = false from hfail] at hexec
    have hout := settlesFrom_of hexec (formTile_waiting job false parts')
    rw [formTile_formed] at hout
    exact ⟨planeParts ((tileRecords (imageOfParts 96 parts')).map (planeValue job.hot)), hout, planeParts_length _,
      fun pos hp => planeParts_tileRecords _ _ hp⟩

/-! ## The plane writes of a COMMIT_DARK tile (R58, R61 to R63) -/

/-- A quotient rounded down is off by the remainder, one rounded up by what the remainder is short of the divisor. -/
theorem natAbs_sub_floor (num : Int) {den : Nat} (hd : 0 < den) : ∃ r : Nat, num % den = r ∧ r < den
    ∧ (num - num / den * den).natAbs = r ∧ (num - (num / den + 1) * den).natAbs = den - r := by
  obtain ⟨r, hr⟩ := Int.eq_ofNat_of_zero_le (Int.emod_nonneg num (Int.natCast_ne_zero.mpr hd.ne'))
  have hlt : r < den := Int.ofNat_lt.mp (hr ▸ Int.emod_lt_of_pos num (Int.natCast_pos.mpr hd))
  have hq : num - num / den * den = r := hr ▸ (sub_eq_of_eq_add (Int.emod_add_ediv_mul num den).symm)
  refine ⟨r, hr, hlt, congrArg Int.natAbs hq, ?_⟩
  rw [add_one_mul, ← sub_sub, hq, ← Int.natAbs_neg, neg_sub, ← Int.ofNat_sub hlt.le, Int.natAbs_natCast]

/-- What a remainder of more than half the divisor is short of it is less than half. -/
theorem two_mul_sub_lt {r d : Nat} (h : d < 2 * r) (hr : r < d) : 2 * (d - r) < d := by
  rw [Nat.mul_sub, Nat.two_mul d]
  exact Nat.sub_lt_left_of_lt_add (Nat.two_mul d ▸ Nat.mul_le_mul_left 2 hr.le) (Nat.add_lt_add_right h d)

/-- The half-even quotient of any number is the nearest whole number, the even one of two. -/
theorem halfEven_nearest (num : Int) {den : Nat} (hd : 0 < den) :
    2 * (num - halfEven num den * den).natAbs ≤ den
    ∧ (2 * (num - halfEven num den * den).natAbs = den → halfEven num den % 2 = 0) := by
  obtain ⟨r, hr, hlt, hq, hq1⟩ := natAbs_sub_floor num hd
  have hv : halfEven num den = if (2 : Int) * r < den then num / den else if (den : Int) < 2 * r then num / den + 1
      else if num / den % 2 = 0 then num / den else num / den + 1 := by rw [halfEven, hr]
  rcases Nat.lt_trichotomy (2 * r) den with h | h | h
  · rw [hv.trans (if_pos (Int.ofNat_lt.mpr h)), hq]
    exact ⟨h.le, fun he => absurd he h.ne⟩
  · have h' : (2 : Int) * r = den := congrArg Nat.cast h
    rw [if_neg h'.not_lt, if_neg h'.not_gt] at hv
    by_cases he : num / (den : Int) % 2 = 0
    · rw [hv.trans (if_pos he), hq]
      exact ⟨h.le, fun _ => he⟩
    · rw [hv.trans (if_neg he), hq1]
      exact ⟨by rw [Nat.mul_sub, h, Nat.two_mul, Nat.add_sub_cancel], fun _ => Int.even_iff.mp
        (Int.odd_iff.mpr (Int.emod_two_ne_zero.mp he)).add_one⟩
  · have h' := Int.ofNat_lt.mpr h
    rw [hv.trans ((if_neg h'.not_gt).trans (if_pos h')), hq1]
    exact ⟨(two_mul_sub_lt h hlt).le, fun he => absurd he (two_mul_sub_lt h hlt).ne⟩

/-- The mean temperature, where it is in range (R62, log 9). -/
theorem meanTemperature_toInt {sum : BitVec 64} {folded : BitVec 16} (h0 : -32768 ≤ halfEven sum.toInt folded.toNat)
    (h1 : halfEven sum.toInt folded.toNat ≤ 32767) :
    (meanTemperature sum folded).toInt = halfEven sum.toInt folded.toNat := by
  rw [meanTemperature, if_pos ⟨h0, h1⟩, BitVec.toInt_ofInt]
  exact Int.bmod_eq_of_le h0 (Int.lt_of_le_of_lt h1 (by decide))

/-- What is left once a plane write's error, if any, has emptied the slot and been raised (R61, log 29). -/
def State.planeLanded (s : State) (job : Commit) (resp : Response) : State :=
  if resp = .error then raise .memoryFault { s with dark := s.dark.setSlot job.slot none } else s

theorem planeLanded_cmd (job : Commit) (resp : Response) : (s.planeLanded job resp).cmd = s.cmd := by
  unfold State.planeLanded
  split
  · exact raise_cmd _ _
  · rfl

theorem planeLanded_waiting (job : Commit) (resp : Response) : (s.planeLanded job resp).waiting = s.waiting :=
  waiting_ite (raise_waiting _ _) rfl

section PlaneWrite

variable {index part placed ended : Nat} {resp : Response} {job : Commit} {plane : List Chunk} {failed : Bool}

theorem exec_planeWriteEnd (hf : s.flying index (.planeWrite part))
    (hb : s.bulk = some (.planeWrite job plane placed ended failed)) : exec (.planeWriteEnd index resp) s =
      .next (settle (planeWriteAnswered job plane placed ended failed resp (s.landed index))) := by
  obtain ⟨txn, ht⟩ := flightOf_flying hf (kind := Purpose.isPlaneWrite) rfl
  show execPlaneWriteEnd index resp s = _
  unfold execPlaneWriteEnd
  rw [ht, hb]
  rfl

/-- An ERROR, or any answer after one, while other writes placed have not ended: it is noted. -/
theorem planeWriteAnswered_failing (h : failed = true ∨ resp = .error) (he : ended + 1 ≠ placed) :
    planeWriteAnswered job plane placed ended failed resp s =
      { s.planeLanded job resp with bulk := some (.planeWrite job plane placed (ended + 1) true) } := by
  have hfail : (failed || decide (resp = .error)) = true := by simpa using h
  rw [planeWriteAnswered, if_pos hfail, if_neg he]
  rfl

/-- The last write placed has ended after an error: the command ends, or stops for an ABORT (R61, R164). -/
theorem planeWriteAnswered_failed (h : failed = true ∨ resp = .error) (he : ended + 1 = placed) :
    planeWriteAnswered job plane placed ended failed resp s =
      if s.cmd.aborting = true then stopForAbort (s.planeLanded job resp)
      else { s.planeLanded job resp with bulk := none }.withOutcome .memoryFault := by
  have hfail : (failed || decide (resp = .error)) = true := by simpa using h
  rw [planeWriteAnswered, if_pos hfail, if_pos he, ← planeLanded_cmd (s := s) job resp]
  rfl

theorem planeWriteAnswered_next (h : ended + 1 ≠ 16) : planeWriteAnswered job plane placed ended false .ok s =
    { s with bulk := some (.planeWrite job plane placed (ended + 1) false) } := if_neg h

theorem planeWriteAnswered_last (h : ended + 1 = 16) : planeWriteAnswered job plane placed ended false .ok s =
    tileDone job s := if_pos h

end PlaneWrite

/-- The state with one tile more done (R60). -/
def State.progressed (s : State) : State := { s with cmd := { s.cmd with progress := satAdd s.cmd.progress 1 } }

/-- A tile is done: the command stops for an ABORT, comes to the next tile, or has ended its walk (R58, R62, R63). -/
theorem tileDone_aborting {job : Commit} (h : s.cmd.aborting = true) : tileDone job s = stopForAbort s.progressed := if_pos h

theorem tileDone_next {job : Commit} (h : s.cmd.aborting = false)
    (ht : job.tile + 1 < s.cmd.snap.width.toNat / 32 * (s.cmd.snap.height.toNat / 32)) :
    tileDone job s = beginTile { job with tile := job.tile + 1 } s.progressed :=
  (if_neg (Bool.eq_false_iff.mp h)).trans (if_pos ht)

theorem tileDone_last {job : Commit} (h : s.cmd.aborting = false)
    (ht : s.cmd.snap.width.toNat / 32 * (s.cmd.snap.height.toNat / 32) ≤ job.tile + 1) :
    tileDone job s = endWalk job s.progressed :=
  (if_neg (Bool.eq_false_iff.mp h)).trans (if_neg (Nat.not_lt.mpr ht))

theorem beginTile_waiting (job : Commit) : (beginTile job s).waiting = s.waiting := by
  rw [beginTile, countCommit_uncovered]
  exact waiting_ite rfl rfl

/-- The walk has ended: the slot is VALID and the library record as it then stands is to be written (R62, R64). -/
theorem endWalk_slot {job : Commit} {x : Slot} (hx : s.dark.slot job.slot = some x) : endWalk job s =
    let dark := s.dark.setSlot job.slot (some { x with
      building := false, eref := s.dark.eref, frames := s.hdr.folded
      temperature := meanTemperature s.dark.tempSum s.hdr.folded })
    { s with dark := dark, bulk := some (.libraryWrite s.cmd.snap.ckptBase dark.libraryImage false) } := by
  rw [endWalk, hx]
  rfl

/-- Settles O53: after an error the answers are noted until the last; else the write is noted or its tile is done. -/
theorem planeWriteEnds : Obligations.PlaneWriteEnds := by
  intro s index part job plane placed ended failed hf hb
  have hexec {resp : Response} := exec_planeWriteEnd (resp := resp) hf hb
  constructor
  · intro resp hr u
    have hu : u.waiting = s.waiting := planeLanded_waiting (s := s.landed index) job resp
    have hlast (he : ended + 1 = placed) : exec (.planeWriteEnd index resp) s = .next (settle
        (if s.cmd.aborting = true then stopForAbort u else { u with bulk := none }.withOutcome .memoryFault)) :=
      planeWriteAnswered_failed (s := s.landed index) hr he ▸ hexec
    refine ⟨fun he => ?_, fun he ha => ?_, fun he ha => ?_⟩
    · exact settlesFrom_of (planeWriteAnswered_failing hr he ▸ hexec) hu
    · rw [ha] at hlast
      exact settlesFrom_of (hlast he) hu
    · rw [ha] at hlast
      exact ⟨_, settlesFrom_of (hlast he) ((stopForAbort_waiting _).trans hu), stopForAbort_stopsInto _⟩
  · rintro rfl x hx done next
    have hlast (he : ended + 1 = 16) : exec (.planeWriteEnd index .ok) s = .next (settle (tileDone job (s.landed index))) :=
      planeWriteAnswered_last he ▸ hexec
    refine ⟨fun he => ?_, fun he ha => ?_, fun ha => ⟨fun he ht => ?_, fun he ht => ?_⟩⟩
    · exact settlesFrom_of (planeWriteAnswered_next he ▸ hexec) rfl
    · rw [tileDone_aborting (s := s.landed index) ha] at hlast
      exact ⟨_, settlesFrom_of (hlast he) (stopForAbort_waiting _), stopForAbort_stopsInto done⟩
    · rw [tileDone_next (s := s.landed index) ha ht] at hlast
      have hout := settlesFrom_of (hlast he) (beginTile_waiting next)
      rw [beginTile, countCommit_uncovered] at hout
      exact hout
    · rw [tileDone_last (s := s.landed index) ha ht, endWalk_slot (s := (s.landed index).progressed) hx] at hlast
      refine ⟨_, settlesFrom_of (hlast he) rfl, fun hn => ?_⟩
      obtain ⟨hnear, htie⟩ := halfEven_nearest s.dark.tempSum.toInt (toNat_pos_of_ne hn)
      exact ⟨_, hnear, htie, meanTemperature_toInt⟩

end Sys2Proof.Machine
end

section
/-! PROOFS. Byte layouts: what the fields of an image read back, and the library record read back (O55). -/

-- The proofs of this file are gone through one after another: the memory limit of the check leaves no room for more threads.
set_option deprecated.oldSectionVars true

namespace Sys2Proof.Machine

/-! ## Spans of bits -/

/-- A span below bit `m` does not see what is added from bit `m` on. -/
theorem span_below {a b c m w : Nat} (h : b + w ≤ m) : (a + 2 ^ m * c) / 2 ^ b % 2 ^ w = a / 2 ^ b % 2 ^ w := by
  obtain ⟨k, rfl⟩ := Nat.exists_eq_add_of_le h
  rw [Nat.pow_add, Nat.pow_add, Nat.mul_assoc, Nat.mul_assoc, Nat.add_mul_div_left _ _ (Nat.two_pow_pos b),
    Nat.add_mul_mod_self_left]

/-- From bit `m` on nothing is seen of a number below `2 ^ m`. -/
theorem span_above {a b c m : Nat} (ha : a < 2 ^ m) (h : m ≤ b) : (a + 2 ^ m * c) / 2 ^ b = 2 ^ m * c / 2 ^ b := by
  obtain ⟨k, rfl⟩ := Nat.exists_eq_add_of_le h
  rw [Nat.pow_add, ← Nat.div_div_eq_div_mul, ← Nat.div_div_eq_div_mul, Nat.add_mul_div_left _ _ (Nat.two_pow_pos m),
    Nat.div_eq_of_lt ha, Nat.zero_add, Nat.mul_div_cancel_left _ (Nat.two_pow_pos m)]

/-- A span of the lowest `m` bits. -/
theorem span_mod {a b m w : Nat} (h : b + w ≤ m) : a % 2 ^ m / 2 ^ b % 2 ^ w = a / 2 ^ b % 2 ^ w := by
  conv_rhs => rw [← Nat.mod_add_div a (2 ^ m)]
  exact (span_below h).symm

/-- A number below `2 ^ m` with one of `k` bits put from bit `m` on. -/
theorem add_place_lt {a c m k : Nat} (ha : a < 2 ^ m) (hc : c < 2 ^ k) : a + 2 ^ m * c < 2 ^ (m + k) :=
  calc a + 2 ^ m * c < 2 ^ m + 2 ^ m * c := Nat.add_lt_add_right ha _
    _ = 2 ^ m * (c + 1) := Nat.add_comm _ _
    _ ≤ 2 ^ m * 2 ^ k := Nat.mul_le_mul_left _ hc
    _ = 2 ^ (m + k) := (Nat.pow_add 2 m k).symm

/-! ## Digits -/

theorem foldr_add_init (f : Nat → Nat) (l : List Nat) (c : Nat) :
    l.foldr (fun i rest => f i + rest) c = l.foldr (fun i rest => f i + rest) 0 + c := by
  induction l with
  | nil => exact (Nat.zero_add c).symm
  | cons i l ih => rw [List.foldr_cons, List.foldr_cons, ih, Nat.add_assoc]

/-- The number with digit `i`, of `w` bits, being `f i`. -/
def digits (w : Nat) (f : Nat → Nat) (n : Nat) : Nat := (List.range n).foldr (fun i rest => f i * 2 ^ (w * i) + rest) 0

theorem digits_succ (w : Nat) (f : Nat → Nat) (n : Nat) : digits w f (n + 1) = digits w f n + 2 ^ (w * n) * f n := by
  rw [digits, List.range_succ, List.foldr_append, foldr_add_init]
  simp only [List.foldr_cons, List.foldr_nil, Nat.add_zero]
  rw [Nat.mul_comm, digits]

theorem digits_lt {w : Nat} {f : Nat → Nat} (hf : ∀ i, f i < 2 ^ w) (n : Nat) : digits w f n < 2 ^ (w * n) := by
  induction n with
  | zero => exact Nat.one_pos
  | succ n ih =>
    rw [digits_succ, Nat.mul_succ]
    exact add_place_lt ih (hf n)

/-- Digit `k` reads back. -/
theorem digits_digit {w : Nat} {f : Nat → Nat} (hf : ∀ i, f i < 2 ^ w) {k n : Nat} (hk : k < n) :
    digits w f n / 2 ^ (w * k) % 2 ^ w = f k := by
  induction n with
  | zero => exact absurd hk (Nat.not_lt_zero k)
  | succ n ih =>
    rw [digits_succ]
    rcases Nat.lt_succ_iff_lt_or_eq.mp hk with h | rfl
    · rw [span_below (by rw [← Nat.mul_succ]; exact Nat.mul_le_mul_left w h), ih h]
    · rw [span_above (digits_lt hf k) le_rfl, Nat.mul_div_cancel_left _ (Nat.two_pow_pos _), Nat.mod_eq_of_lt (hf k)]

/-- A word as wide as its digits holds them. -/
theorem toNat_ofNat_digits {w : Nat} {f : Nat → Nat} (hf : ∀ i, f i < 2 ^ w) {n m : Nat} (hm : w * n = m) :
    (BitVec.ofNat m (digits w f n)).toNat = digits w f n := by
  subst hm
  exact Nat.mod_eq_of_lt (digits_lt hf n)

/-! ## Fields of an image -/

theorem imageOf_cons (f : Field) (fields : List Field) :
    imageOf (f :: fields) = f.val % 2 ^ (8 * f.len) * 2 ^ (8 * f.off) + imageOf fields := rfl

theorem imageOf_append (a b : List Field) : imageOf (a ++ b) = imageOf a + imageOf b := by
  induction a with
  | nil => exact (Nat.zero_add _).symm
  | cons f a ih => rw [List.cons_append, imageOf_cons, imageOf_cons, ih, Nat.add_assoc]

theorem imageOf_shiftFields (k : Nat) (fields : List Field) :
    imageOf (shiftFields k fields) = imageOf fields * 2 ^ (8 * k) := by
  induction fields with
  | nil => exact (Nat.zero_mul _).symm
  | cons f fields ih =>
    have hs : shiftFields k (f :: fields) = { f with off := f.off + k } :: shiftFields k fields := rfl
    rw [hs, imageOf_cons, imageOf_cons, ih, Nat.mul_add, Nat.pow_add, ← Nat.mul_assoc, Nat.add_mul]

/-- Layouts one after another, each shifted to its place, are the digits of one number. -/
theorem imageOf_flatMap (w : Nat) (f : Nat → List Field) (n : Nat) :
    imageOf ((List.range n).flatMap fun i => shiftFields (w * i) (f i)) = digits (8 * w) (fun i => imageOf (f i)) n := by
  induction n with
  | zero => rfl
  | succ n ih =>
    rw [List.range_succ, List.flatMap_append, imageOf_append, ih, digits_succ, List.flatMap_singleton, imageOf_shiftFields,
      Nat.mul_comm (imageOf (f n)), Nat.mul_assoc]

/-- The fields lie one behind another in the bytes `lo` to `hi` - 1. -/
def LaidOut : Nat → List Field → Nat → Prop
  | lo, [], hi => lo ≤ hi
  | lo, f :: fields, hi => lo ≤ f.off ∧ LaidOut (f.off + f.len) fields hi

theorem LaidOut.le {lo hi : Nat} {fields : List Field} (h : LaidOut lo fields hi) : lo ≤ hi := by
  induction fields generalizing lo with
  | nil => exact h
  | cons f fields ih => exact h.1.trans ((Nat.le_add_right _ _).trans (ih h.2))

/-- Fields from byte `lo` on give a multiple of its place. -/
theorem LaidOut.dvd {lo hi : Nat} {fields : List Field} (h : LaidOut lo fields hi) : 2 ^ (8 * lo) ∣ imageOf fields := by
  induction fields generalizing lo with
  | nil => exact Nat.dvd_zero _
  | cons f fields ih =>
    have hplace : 2 ^ (8 * lo) ∣ 2 ^ (8 * f.off) := Nat.pow_dvd_pow 2 (Nat.mul_le_mul_left 8 h.1)
    have hrest : 2 ^ (8 * lo) ∣ 2 ^ (8 * (f.off + f.len)) :=
      Nat.pow_dvd_pow 2 (Nat.mul_le_mul_left 8 (h.1.trans (Nat.le_add_right _ _)))
    exact Nat.dvd_add (hplace.mul_left _) (hrest.trans (ih h.2))

/-- A field's value in its place ends with the field. -/
theorem Field.place_lt (f : Field) : f.val % 2 ^ (8 * f.len) * 2 ^ (8 * f.off) < 2 ^ (8 * (f.off + f.len)) := by
  rw [Nat.mul_add, Nat.pow_add, Nat.mul_comm]
  exact Nat.mul_lt_mul_of_pos_left (Nat.mod_lt _ (Nat.two_pow_pos _)) (Nat.two_pow_pos _)

theorem LaidOut.lt {lo hi : Nat} {fields : List Field} (h : LaidOut lo fields hi) : imageOf fields < 2 ^ (8 * hi) := by
  induction fields generalizing lo with
  | nil => exact Nat.two_pow_pos _
  | cons f fields ih =>
    obtain ⟨c, hc⟩ := h.2.dvd
    obtain ⟨k, hk⟩ := Nat.exists_eq_add_of_le h.2.le
    have hlt := ih h.2
    rw [hc, hk, Nat.mul_add 8 (f.off + f.len), Nat.pow_add] at hlt
    rw [imageOf_cons, hc, hk, Nat.mul_add 8 (f.off + f.len)]
    exact add_place_lt f.place_lt (Nat.lt_of_mul_lt_mul_left hlt)

theorem LaidOut.le_off {lo hi : Nat} {fields : List Field} (h : LaidOut lo fields hi) {f : Field} (hf : f ∈ fields) :
    lo ≤ f.off := by
  induction fields generalizing lo with
  | nil => cases hf
  | cons g fields ih =>
    rcases List.mem_cons.mp hf with rfl | hf
    · exact h.1
    · exact h.1.trans ((Nat.le_add_right _ _).trans (ih h.2 hf))

/-- A field of a layout reads back. -/
theorem LaidOut.fieldAt {lo hi : Nat} {fields : List Field} (h : LaidOut lo fields hi) {f : Field} (hf : f ∈ fields) :
    fieldAt (imageOf fields) f.off f.len = f.val % 2 ^ (8 * f.len) := by
  induction fields generalizing lo with
  | nil => cases hf
  | cons g fields ih =>
    obtain ⟨c, hc⟩ := h.2.dvd
    rcases List.mem_cons.mp hf with rfl | hf
    · rw [Machine.fieldAt, imageOf_cons, hc, span_below (Nat.mul_add 8 _ _).ge,
        Nat.mul_div_cancel _ (Nat.two_pow_pos _), Nat.mod_mod]
    · have hoff := h.2.le_off hf
      rw [← ih h.2 hf, Machine.fieldAt, Machine.fieldAt, imageOf_cons, hc, span_above g.place_lt
        (Nat.mul_le_mul_left 8 hoff)]

/-- A span of an image above all its fields is 0. -/
theorem fieldAt_above {image o n m : Nat} (hi : image < 2 ^ (8 * m)) (h : m ≤ o) : fieldAt image o n = 0 := by
  rw [fieldAt, Nat.div_eq_of_lt (hi.trans_le (Nat.pow_le_pow_right Nat.two_pos (Nat.mul_le_mul_left 8 h))), Nat.zero_mod]

/-! ## The library record (R64, R66) -/

/-- Word `i` lies below the end of the first `n` words. -/
theorem word_le {i n : Nat} (h : i < n) : 8 * (2 * i) + 8 * 2 ≤ 8 * (2 * n) := by
  rw [← Nat.mul_add]
  exact Nat.mul_le_mul_left 8 (Nat.mul_le_mul_left 2 h)

/-- A word put behind the others adds its value to their sum (R64). -/
theorem wordSum_append {n image c : Nat} (hi : image < 2 ^ (8 * (2 * n))) (hc : c < 65536) :
    wordSum (n + 1) (image + 2 ^ (8 * (2 * n)) * c) = wordSum (n + 1) image + c := by
  have hbelow : ∀ i ∈ List.range n, fieldAt (image + 2 ^ (8 * (2 * n)) * c) (2 * i) 2 = fieldAt image (2 * i) 2 :=
    fun i hi => span_below (word_le (List.mem_range.mp hi))
  have hlast : fieldAt (image + 2 ^ (8 * (2 * n)) * c) (2 * n) 2 = c := by
    rw [fieldAt, span_above hi le_rfl, Nat.mul_div_cancel_left _ (Nat.two_pow_pos _)]
    exact Nat.mod_eq_of_lt hc
  simp only [wordSum_eq, List.range_succ, List.map_append, List.sum_append, List.map_congr_left hbelow, List.map_cons,
    List.map_nil, List.sum_singleton, hlast, fieldAt_above hi le_rfl, Nat.add_zero]

/-- The check word brings the sum of the words to 0 modulo 65536 (R64, R154). -/
theorem add_checkWord (sum : Nat) : (sum + checkWord sum) % 65536 = 0 := by
  have hlt : sum % 65536 < 65536 := Nat.mod_lt _ (by decide)
  rw [checkWord, Nat.add_mod_mod, ← Nat.mod_add_mod, Nat.add_sub_cancel' hlt.le, Nat.mod_self]

/-- The fields of a VALID slot's entry: state byte, slot fields, a check word. -/
def Slot.entry (x : Slot) (c : Nat) : List Field := ⟨0, 1, 2⟩ :: (x.fields ++ [⟨30, 2, c⟩])

theorem Slot.entry_laidOut (x : Slot) (c : Nat) : LaidOut 0 (x.entry c) 32 := by
  show 0 ≤ 0 ∧ 1 ≤ 2 ∧ 4 ≤ 4 ∧ 8 ≤ 8 ∧ 10 ≤ 10 ∧ 12 ≤ 12 ∧ 14 ≤ 16 ∧ 20 ≤ 30 ∧ 32 ≤ 32
  decide

/-- The fields before the check word end before it. -/
theorem Slot.beforeCheck_laidOut (x : Slot) : LaidOut 0 (⟨0, 1, 2⟩ :: x.fields) 30 := by
  show 0 ≤ 0 ∧ 1 ≤ 2 ∧ 4 ≤ 4 ∧ 8 ≤ 8 ∧ 10 ≤ 10 ∧ 12 ≤ 12 ∧ 14 ≤ 16 ∧ 20 ≤ 30
  decide

theorem imageOf_entry (x : Slot) {c : Nat} (h : c < 2 ^ (8 * 2)) :
    imageOf (x.entry c) = imageOf (⟨0, 1, 2⟩ :: x.fields) + 2 ^ (8 * (2 * 15)) * c := by
  have hc : imageOf [⟨30, 2, c⟩] = c % 2 ^ (8 * 2) * 2 ^ (8 * 30) + 0 := imageOf_cons ⟨30, 2, c⟩ []
  rw [Slot.entry, ← List.cons_append, imageOf_append, hc, Nat.add_zero, Nat.mod_eq_of_lt h, Nat.mul_comm]

/-- A VALID slot's entry: its check word brings the sum of the words to 0 (R64). -/
theorem entryFields_valid {x : Slot} (h : x.building = false) :
    ∃ c, entryFields (some x) = x.entry c ∧ wordSum 16 (imageOf (x.entry c)) % 65536 = 0 := by
  refine ⟨checkWord (wordSum 16 (imageOf (⟨0, 1, 2⟩ :: x.fields))), ?_, ?_⟩
  · rw [entryFields, h]
    rfl
  · have hc (sum : Nat) : checkWord sum < 2 ^ (8 * 2) := Nat.mod_lt _ (by decide)
    rw [imageOf_entry x (hc _), wordSum_append x.beforeCheck_laidOut.lt (hc _)]
    exact add_checkWord _

/-- An entry fits its 32 bytes. -/
theorem imageOf_entryFields_lt (slot : Option Slot) : imageOf (entryFields slot) < 2 ^ 256 := by
  cases slot with
  | none => exact Nat.two_pow_pos _
  | some x =>
    by_cases h : x.building = true
    · rw [entryFields, if_pos h]
      exact Nat.two_pow_pos _
    · obtain ⟨c, hc, -⟩ := entryFields_valid (Bool.eq_false_iff.mpr h)
      exact hc ▸ (x.entry_laidOut c).lt

/-- Entry `k` sees its own 32 bytes alone. -/
theorem slotOfEntry_own (image k : Nat) : slotOfEntry image k = slotOfEntry (image / 2 ^ (256 * k) % 2 ^ 256) 0 := by
  have hspan {off len : Nat} (h : 8 * off + 8 * len ≤ 256) :
      fieldAt (image / 2 ^ (256 * k) % 2 ^ 256) off len = fieldAt (image / 2 ^ (256 * k)) off len := span_mod h
  have hsum : wordSum 16 (image / 2 ^ (256 * k) % 2 ^ 256) = wordSum 16 (image / 2 ^ (256 * k)) := by
    rw [wordSum_eq, wordSum_eq]
    exact congrArg _ (List.map_congr_left fun i hi => hspan (word_le (n := 16) (List.mem_range.mp hi)))
  simp only [slotOfEntry, Nat.mul_zero, Nat.pow_zero, Nat.div_one, hsum]
  rw [hspan (by decide), hspan (by decide), hspan (by decide), hspan (by decide), hspan (by decide), hspan (by decide),
    hspan (by decide)]

/-- A word held in a field is what the field reads back. -/
theorem ofNat_field {w : Nat} {v : BitVec w} {n : Nat} (h : n = v.toNat % 2 ^ w) : BitVec.ofNat w n = v :=
  BitVec.eq_of_toNat_eq (by rw [h, BitVec.toNat_ofNat, Nat.mod_mod, Nat.mod_eq_of_lt v.isLt])

/-- The entry of a slot reads back as the slot where it is VALID, else as none (R64, R66). -/
theorem slotOfEntry_entryFields (slot : Option Slot) : slotOfEntry (imageOf (entryFields slot)) 0 =
    match slot with
    | some x => if x.building = true then none else some x
    | none => none := by
  cases slot with
  | none => rfl
  | some x =>
    by_cases h : x.building = true
    · rw [entryFields, if_pos h]
      exact (if_pos h).symm
    · obtain ⟨c, hc, hsum⟩ := entryFields_valid (Bool.eq_false_iff.mpr h)
      have hfield {i : Nat} {f : Field} (hi : (x.entry c)[i]? = some f) :
          fieldAt (imageOf (x.entry c)) f.off f.len = f.val % 2 ^ (8 * f.len) :=
        (x.entry_laidOut c).fieldAt (List.mem_of_getElem? hi)
      have hstate : fieldAt (imageOf (x.entry c)) 0 1 = 2 := hfield (i := 0) rfl
      rw [hc, slotOfEntry, Nat.mul_zero, Nat.pow_zero, Nat.div_one, if_pos ⟨hstate, hsum⟩]
      rw [ofNat_field (v := x.temperature) (hfield (i := 1) rfl), ofNat_field (v := x.eref) (hfield (i := 2) rfl),
        ofNat_field (v := x.frames) (hfield (i := 3) rfl), ofNat_field (v := x.width) (hfield (i := 4) rfl),
        ofNat_field (v := x.height) (hfield (i := 5) rfl), ofNat_field (v := x.base) (hfield (i := 6) rfl),
        ← Bool.eq_false_iff.mpr h]
      exact (if_neg h).symm

/-- Settles O55: the entries are the digits of the record's image, and each reads back as its slot. -/
theorem libraryRecordReadsBack : Obligations.LibraryRecordReadsBack := by
  intro d k hk
  have hfit (i : Nat) : imageOf (entryFields (d.slot i)) < 2 ^ 256 := imageOf_entryFields_lt _
  have himage : d.libraryImage.toNat = digits 256 (fun i => imageOf (entryFields (d.slot i))) 4 := by
    rw [DarkUnit.libraryImage, imageOf_flatMap 32]
    exact toNat_ofNat_digits hfit rfl
  rw [get_slotsOfLibrary hk, slotOfEntry_own, himage, digits_digit hfit hk]
  exact slotOfEntry_entryFields _

end Sys2Proof.Machine
end

section
/-! PROOFS. The M-link grant: what each requester presents, and the grant by order and pass counts (O45). -/

-- The proofs of this file are gone through one after another: the memory limit of the check leaves no room for more threads.
set_option deprecated.oldSectionVars true

namespace Sys2Proof.Machine

variable {s : State}

/-! ## The beats of a write (R176) -/

/-- A byte of a word, bit by bit. -/
theorem byteOf_getLsbD {w : Nat} (v : BitVec w) (b : Nat) {i : Nat} (hi : i < 8) :
    (byteOf v b).getLsbD i = v.getLsbD (8 * b + i) := by
  rw [byteOf, BitVec.getLsbD_extractLsb', decide_eq_true hi, Bool.true_and]

/-- The beats of a write carry the bytes of its chunk. -/
theorem chunkBeats_carry (c : Chunk) : beatsCarry (chunkBeats c) (byteOf c) := by
  refine ⟨by rw [chunkBeats, List.length_map, List.length_range], fun b hb =>
    ⟨⟨c.extractLsb' (64 * (b / 8)) 64, 0xFF⟩, ?_, rfl, ?_⟩⟩
  · rw [chunkBeats, List.getElem?_map, List.getElem?_range (Nat.div_lt_of_lt_mul hb)]
    rfl
  · refine BitVec.eq_of_getLsbD_eq fun i hi => ?_
    have hlt : 8 * (b % 8) + i < 64 := calc
      8 * (b % 8) + i < 8 * (b % 8) + 8 := Nat.add_lt_add_left hi _
      _ ≤ 64 := Nat.mul_le_mul_left 8 (Nat.mod_lt b (by decide : 8 > 0))
    rw [byteOf_getLsbD _ _ hi, byteOf_getLsbD _ _ hi, BitVec.getLsbD_extractLsb', decide_eq_true hlt, Bool.true_and,
      ← Nat.add_assoc, Nat.mul_assoc 8 8, ← Nat.mul_add, Nat.div_add_mod]

/-- The beats of a write whose chunk holds the bytes `byte`. -/
theorem chunkBeats_carry_of {c : Chunk} {byte : Nat → Byte} (h : ∀ b, b < 128 → byteOf c b = byte b) :
    beatsCarry (chunkBeats c) byte := by
  obtain ⟨hlen, hbeat⟩ := chunkBeats_carry c
  refine ⟨hlen, fun b hb => ?_⟩
  obtain ⟨x, hx, hs, hbyte⟩ := hbeat b hb
  exact ⟨x, hx, hs, hbyte.trans (h b hb)⟩

/-! ## The bytes of a sector (R120, section 11.4) -/

/-- A word in its field, under what begins where the field ends. -/
theorem imageOf_word {w off len : Nat} (fields : List Field) (v : BitVec w) (hw : 8 * len = w) :
    imageOf (⟨off, len, v.toNat⟩ :: fields) = 2 ^ (8 * off) * v.toNat + imageOf fields := by
  subst hw
  have hcons : imageOf (⟨off, len, v.toNat⟩ :: fields) = v.toNat % 2 ^ (8 * len) * 2 ^ (8 * off) + imageOf fields := rfl
  rw [hcons, Nat.mod_eq_of_lt v.isLt, Nat.mul_comm]

/-- A word in its field, under the word that begins where the field ends. -/
theorem imageOf_pack {w m off len : Nat} {fields : List Field} {c : BitVec m} (v : BitVec w) (hw : 8 * len = w)
    (h : imageOf fields = 2 ^ (8 * (off + len)) * c.toNat) :
    imageOf (⟨off, len, v.toNat⟩ :: fields) = 2 ^ (8 * off) * (c ++ v).toNat := by
  rw [imageOf_word _ v hw, h, BitVec.toNat_append, ← Nat.shiftLeft_add_eq_or_of_lt v.isLt, Nat.shiftLeft_eq, Nat.mul_add 8,
    Nat.pow_add, Nat.mul_assoc, ← Nat.mul_add, Nat.add_comm, hw, Nat.mul_comm (2 ^ w)]

/-- A record of 12 bytes is its fields' image. -/
theorem Rec.toNat_eq (r : Rec) : r.toNat = imageOf r.fields := by
  have hstamp : imageOf [⟨10, 2, r.stamp.toNat⟩] = 2 ^ (8 * (8 + 2)) * r.stamp.toNat := imageOf_word [] r.stamp rfl
  have h := imageOf_pack r.sum (off := 0) (len := 4) rfl (imageOf_pack r.n (len := 2) rfl
    (imageOf_pack r.dev (len := 2) rfl (imageOf_pack r.peak (len := 2) rfl hstamp)))
  exact (h.trans (Nat.one_mul _)).symm

theorem Rec.toNat_lt (r : Rec) : r.toNat < 2 ^ 96 := BitVec.isLt _

/-- Byte `n` of records one after another is a byte of record `n / 12`. -/
theorem digits_byte {f : Nat → Rec} {n k : Nat} (hn : n / 12 < k) :
    BitVec.ofNat 8 (digits 96 (fun j => (f j).toNat) k / 2 ^ (8 * n)) =
      BitVec.ofNat 8 (fieldAt (imageOf (f (n / 12)).fields) (n % 12) 1) := by
  have hsplit : 8 * n = 96 * (n / 12) + 8 * (n % 12) := by
    rw [Nat.mul_assoc 8 12, ← Nat.mul_add, Nat.div_add_mod]
  have hbyte : 8 * (n % 12) + 8 ≤ 96 := Nat.mul_le_mul_left 8 (Nat.mod_lt n (by decide : 12 > 0))
  refine BitVec.eq_of_toNat_eq ?_
  rw [BitVec.toNat_ofNat, BitVec.toNat_ofNat, hsplit, Nat.pow_add, ← Nat.div_div_eq_div_mul, ← span_mod hbyte,
    digits_digit (f := fun j => (f j).toNat) (fun j => (f j).toNat_lt) hn, Rec.toNat_eq]
  exact (Nat.mod_mod _ _).symm

/-- The bytes of a sector's part are those of its records (R120). -/
theorem Sector.part_byte (x : Sector) (i : Nat) {b : Nat} (hb : b < 128) : byteOf (x.part i) b =
    BitVec.ofNat 8 (fieldAt (imageOf (x.rec_ ((128 * i + b) / 12)).fields) ((128 * i + b) % 12) 1) := by
  have hpart : x.part i = BitVec.ofNat 1024
      (digits 96 (fun j => (x.rec_ (128 * i / 12 + j)).toNat) 12 / 2 ^ (8 * (128 * i % 12))) := rfl
  have ho : 128 * i % 12 < 12 := Nat.mod_lt _ (by decide)
  have hdiv : 128 * i + b = 12 * (128 * i / 12) + (128 * i % 12 + b) := by rw [← Nat.add_assoc, Nat.div_add_mod]
  have hle : 8 * b + 8 ≤ 1024 := Nat.mul_le_mul_left 8 hb
  rw [hpart, byteOf, extractLsb'_ofNat hle, Nat.div_div_eq_div_mul, ← Nat.pow_add,
    ← Nat.mul_add, hdiv]
  have hn : (128 * i % 12 + b) / 12 < 12 :=
    Nat.div_lt_of_lt_mul ((Nat.add_lt_add ho hb).trans (by decide))
  rw [Nat.mul_add_div (by decide), Nat.mul_add_mod]
  exact digits_byte (f := fun q => x.rec_ (128 * i / 12 + q)) hn

/-! ## The context record's parts (R155) -/

/-- The record's first part with its magic 0: bytes 0 to 3 are 0, the others stand. -/
theorem byteOf_clearLow (p : Chunk) {b : Nat} (hb : b < 128) :
    byteOf ((p >>> 32) <<< 32) b = if b < 4 then 0 else byteOf p b := by
  refine BitVec.eq_of_getLsbD_eq fun i hi => ?_
  have hlt : 8 * b + i < 1024 := (Nat.add_lt_add_left hi _).trans_le (Nat.mul_le_mul_left 8 hb)
  rw [byteOf_getLsbD _ _ hi, BitVec.getLsbD_shiftLeft, decide_eq_true hlt, BitVec.getLsbD_ushiftRight, Bool.true_and]
  by_cases h : b < 4
  · have hlow : 8 * b + i < 32 := (Nat.add_lt_add_left hi _).trans_le (Nat.mul_le_mul_left 8 h)
    rw [if_pos h, decide_eq_true hlow]
    exact BitVec.getLsbD_zero.symm
  · have hhigh : 32 ≤ 8 * b + i := (Nat.mul_le_mul_left 8 (Nat.not_lt.mp h)).trans (Nat.le_add_right _ _)
    rw [if_neg h, decide_eq_false (Nat.not_lt.mpr hhigh), Nat.add_sub_cancel' hhigh, byteOf_getLsbD _ _ hi]
    rfl

/-- The bytes a step of a context write sends. -/
theorem contextStepPart_byte (parts : List Chunk) (step : Nat) {b : Nat} (hb : b < 128) :
    byteOf (contextStepPart parts step) b =
      if step = 0 ∧ b < 4 then 0 else byteOf (parts[if step = 32 then 0 else step]?.getD 0) b := by
  by_cases h : step = 0
  · subst h
    exact (byteOf_clearLow _ hb).trans (if_congr (and_iff_right rfl).symm rfl rfl)
  · have hs : ¬(step = 0 ∧ b < 4) := fun hs => h hs.1
    rw [contextStepPart, if_neg h, if_neg hs]
    by_cases h32 : step = 32
    · rw [if_pos h32, if_pos h32]
      rfl
    · rw [if_neg h32, if_neg h32]
      rfl

/-! ## What is presented (R176) -/

/-- A fetch that is not wanted is not presented. -/
theorem filter_wanted_none {g : Option Fetch} (h : ∀ f, g = some f → f.state ≠ .wanted) :
    (g.filter fun f => decide (f.state = .wanted)) = none := by
  cases g with
  | none => rfl
  | some f => exact if_neg fun hf => h f rfl (of_decide_eq_true hf)

theorem filter_wanted_some {g : Option Fetch} {f : Fetch} (h : g = some f) (hf : f.state = .wanted) :
    (g.filter fun f => decide (f.state = .wanted)) = some f := by
  subst h
  exact if_pos (decide_eq_true hf)

theorem wantedFetch_none {b : Block} (ha : ∀ f, b.fetchA = some f → f.state ≠ .wanted)
    (hb : ∀ f, b.fetchB = some f → f.state ≠ .wanted) : b.wantedFetch = none := by
  rw [Block.wantedFetch, filter_wanted_none ha, filter_wanted_none hb]

theorem wantedFetch_first {b : Block} {f : Fetch} (ha : b.fetchA = some f) (hf : f.state = .wanted) :
    b.wantedFetch = some (.darkFetch b.row b.block false, fetchRead f) := by
  rw [Block.wantedFetch, filter_wanted_some ha hf]

theorem wantedFetch_second {b : Block} {f : Fetch} (ha : ∀ f, b.fetchA = some f → f.state ≠ .wanted)
    (hb : b.fetchB = some f) (hf : f.state = .wanted) :
    b.wantedFetch = some (.darkFetch b.row b.block true, fetchRead f) := by
  rw [Block.wantedFetch, filter_wanted_none ha, filter_wanted_some hb hf]

theorem presentsFetch_eq : s.presents .darkFetch = s.blocksInHand.findSome? Block.wantedFetch := by
  show s.presentsFetch = _
  unfold State.presentsFetch State.blocksInHand
  generalize s.inHand = o
  cases o with
  | none => rfl
  | some h => cases h <;> rfl

/-- The earliest block with a wanted fetch is served first (log 36). -/
theorem presents_darkFetch {before after : List Block} {b : Block} {q : Purpose × Request}
    (hblocks : s.blocksInHand = before ++ b :: after) (hbefore : ∀ c, c ∈ before → c.wantedFetch = none)
    (hb : b.wantedFetch = some q) : s.presents .darkFetch = some q := by
  rw [presentsFetch_eq, hblocks, List.findSome?_append, List.findSome?_eq_none_iff.mpr hbefore, List.findSome?_cons, hb]
  rfl

theorem presents_fill {f : Fill} (h : s.cache.fill = some f) : s.presents .sectorFill =
    if f.placed < 96 then some (.fill f.placed, .read (recordAddr s.cmd.snap.accBase f.tile f.placed) 16) else none := by
  show s.presentsFill = _
  rw [State.presentsFill, h]

theorem presents_fill_none (h : s.cache.fill = none) : s.presents .sectorFill = none := by
  show s.presentsFill = none
  rw [State.presentsFill, h]

theorem presents_writeback {w : Writeback} {x : Sector} (h : s.cache.writeback = some w)
    (hx : s.cache.sector w.sector = some x) : s.presents .sectorWriteback =
    if w.placed < 96 then some (if w.forFlush then .flush w.placed else .evict w.placed,
      .write (recordAddr s.cmd.snap.accBase x.tile w.placed) (chunkBeats (x.part w.placed))) else none := by
  show s.presentsWriteback = _
  simp only [State.presentsWriteback, h, hx]

theorem presents_writeback_none (h : s.cache.writeback = none
    ∨ ∃ w, s.cache.writeback = some w ∧ s.cache.sector w.sector = none) : s.presents .sectorWriteback = none := by
  show s.presentsWriteback = none
  unfold State.presentsWriteback
  rcases h with h | ⟨w, h, hx⟩
  · rw [h]
  · simp only [h, hx]

theorem presents_bulk {b : BulkOp} (h : s.bulk = some b) : s.presents .bulkMover = s.presentsBulkOp b := by
  show s.bulk.bind _ = _
  rw [h]
  rfl

theorem presents_through {r : Request} (h : s.inHand = some (.through r false)) :
    s.presents .passThrough = some (.passThrough, r) := by
  show s.presentsThrough = _
  rw [State.presentsThrough, h]

theorem presents_through_none (h : ∀ r, s.inHand ≠ some (.through r false)) : s.presents .passThrough = none := by
  show s.presentsThrough = _
  unfold State.presentsThrough
  generalize s.inHand = o at h ⊢
  cases o with
  | none => rfl
  | some hand =>
    cases hand with
    | through r placed =>
      cases placed with
      | false => exact absurd rfl (h r)
      | true => rfl
    | _ => rfl

/-- What no requester presents is a read of a fill that has been dropped (log 33). -/
def noDroppedFill (q : Option (Purpose × Request)) : Bool := q.all fun x => decide (x.1 ≠ .droppedFill)

theorem noDroppedFill_ite {P : Prop} [Decidable P] {q u : Option (Purpose × Request)} (hq : noDroppedFill q = true)
    (hu : noDroppedFill u = true) : noDroppedFill (if P then q else u) = true := by
  split
  · exact hq
  · exact hu

theorem noDroppedFill_wantedFetch (b : Block) : noDroppedFill b.wantedFetch = true := by
  unfold Block.wantedFetch
  generalize b.fetchA.filter _ = a, b.fetchB.filter _ = c
  cases a with
  | some f => rfl
  | none => cases c <;> rfl

theorem noDroppedFill_presents (r : Requester) : noDroppedFill (s.presents r) = true := by
  cases r with
  | passThrough =>
    by_cases h : ∃ r, s.inHand = some (.through r false)
    · obtain ⟨r, h⟩ := h
      rw [presents_through h]
      rfl
    · rw [presents_through_none (not_exists.mp h)]
      rfl
  | darkFetch =>
    rw [presentsFetch_eq]
    cases h : s.blocksInHand.findSome? Block.wantedFetch with
    | none => rfl
    | some q =>
      obtain ⟨b, -, hb⟩ := List.exists_of_findSome?_eq_some h
      rw [← hb]
      exact noDroppedFill_wantedFetch b
  | sectorFill =>
    show noDroppedFill s.presentsFill = true
    unfold State.presentsFill
    cases s.cache.fill with
    | none => rfl
    | some f => exact noDroppedFill_ite rfl rfl
  | sectorWriteback =>
    show noDroppedFill s.presentsWriteback = true
    unfold State.presentsWriteback
    cases s.cache.writeback with
    | none => rfl
    | some w =>
      dsimp only
      cases s.cache.sector w.sector with
      | none => rfl
      | some x => exact noDroppedFill_ite (by cases w.forFlush <;> rfl) rfl
  | bulkMover =>
    show noDroppedFill (s.bulk.bind _) = true
    cases s.bulk with
    | none => rfl
    | some op => cases op <;> exact noDroppedFill_ite rfl rfl

/-! ## The grant (R176 to R178) -/

section Grant

variable {r : Requester} {p : Purpose} {txn : Request} {a : Arbiter}

theorem find?_at {α : Type} {l before after : List α} {x : α} {test : α → Bool} (hl : l = before ++ x :: after)
    (hx : test x = true) (hb : ∀ q, q ∈ before → test q = false) : l.find? test = some x :=
  List.find?_eq_some_iff_append.mpr ⟨hx, before, after, hl, fun q hq => by rw [hb q hq]; rfl⟩

theorem passCounts_of_make (f : Requester → Nat) (q : Requester) : (PassCounts.make f).of q = f q := by
  cases q <;> rfl

/-- The grant goes by pass count 16 first, else by the order of the requesters (R177). -/
theorem grantee_eq {before after : List Requester} (hl : requesters = before ++ r :: after) (hp : (s.presents r).isSome = true)
    (h : (s.arb.passCounts.of r = 16 ∧ ∀ q, q ∈ before → s.presents q = none ∨ s.arb.passCounts.of q ≠ 16)
      ∨ ((∀ q, s.presents q = none ∨ s.arb.passCounts.of q ≠ 16) ∧ ∀ q, q ∈ before → s.presents q = none)) :
    s.grantee = some r := by
  have hlow {q : Requester} (hq : s.presents q = none ∨ s.arb.passCounts.of q ≠ 16) :
      ((s.presents q).isSome && decide (s.arb.passCounts.of q = 16)) = false := by
    rcases hq with hq | hq
    · rw [hq]
      rfl
    · rw [decide_eq_false hq, Bool.and_false]
  unfold State.grantee
  rcases h with ⟨hr, hb⟩ | ⟨hall, hb⟩
  · rw [find?_at hl (by rw [hp, decide_eq_true hr]; rfl) fun q hq => hlow (hb q hq)]
  · rw [List.find?_eq_none.mpr fun q _ => Bool.eq_false_iff.mp (hlow (hall q))]
    exact find?_at hl hp fun q hq => by rw [hb q hq]; rfl

theorem grantee_none (h : ∀ r, s.presents r = none) : s.grantee = none := by
  have hnone {test : Requester → Bool} (ht : ∀ q, test q = false) : requesters.find? test = none :=
    List.find?_eq_none.mpr fun q _ => Bool.eq_false_iff.mp (ht q)
  rw [State.grantee, hnone fun q => by rw [h q]; rfl]
  exact hnone fun q => by rw [h q]; rfl

theorem exec_mLinkGrant {t : State} (h : grant s = t) : exec .mLinkGrant s = .next t := congrArg Host.Outcome.next h

/-- With nothing presented, 8 in flight or RST_N low no grant is made (R177, R179, log 25). -/
theorem grant_none (h : s.resetLow = true ∨ 8 ≤ s.arb.inFlight.length ∨ ∀ r, s.presents r = none) : grant s = s := by
  unfold grant
  split
  · rfl
  next hn =>
    obtain ⟨h1, h2⟩ := not_or.mp hn
    rw [grantee_none ((h.resolve_left h1).resolve_left h2)]

theorem grant_some (h1 : s.resetLow = false) (h2 : s.arb.inFlight.length < 8) (hg : s.grantee = some r)
    (hp : s.presents r = some (p, txn)) : grant s =
      (markPlaced p s).setArb ⟨PassCounts.make (s.passAfter r), s.arb.inFlight ++ [⟨p, txn⟩]⟩ := by
  have hn : ¬(s.resetLow = true ∨ 8 ≤ s.arb.inFlight.length) := by
    rw [h1]
    exact not_or.mpr ⟨Bool.false_ne_true, Nat.not_le.mpr h2⟩
  rw [grant, if_neg hn, hg]
  show placeGranted r s = _
  rw [placeGranted, hp]

/-- `t` is `s` but for the request in hand, the fill, the writeback and the Bulk Mover's operation. -/
def State.sameButPlaced (s t : State) : Prop := t = { s with
  inHand := t.inHand
  cache := { s.cache with fill := t.cache.fill, writeback := t.cache.writeback }
  bulk := t.bulk }

/-- The other fields stand, the link aside. -/
theorem State.sameButPlaced.keeps {t : State} (h : s.sameButPlaced t) {Q : Prop} (hQ : Q) :
    (t.setArb a).hdr = s.hdr ∧ (t.setArb a).dark = s.dark ∧ (t.setArb a).rot = s.rot ∧ (t.setArb a).cmd = s.cmd
    ∧ (t.setArb a).rep = s.rep ∧ (t.setArb a).classes = s.classes ∧ (t.setArb a).answers = s.answers
    ∧ (t.setArb a).waiting = s.waiting ∧ (t.setArb a).cache.sectors = s.cache.sectors
    ∧ (t.setArb a).cache.touched = s.cache.touched ∧ (t.setArb a).planBase = s.planBase
    ∧ (t.setArb a).pending = s.pending ∧ Q := by
  rw [State.sameButPlaced] at h
  rw [h]
  exact ⟨rfl, rfl, rfl, rfl, rfl, rfl, rfl, rfl, rfl, rfl, rfl, rfl, hQ⟩

theorem sameButPlaced_self : s.sameButPlaced s := rfl

theorem sameButPlaced_setInHand (h : Option InHand) : s.sameButPlaced (s.setInHand h) := rfl

theorem sameButPlaced_setFill (f : Option Fill) : s.sameButPlaced (s.setCache { s.cache with fill := f }) := rfl

theorem sameButPlaced_setWriteback (w : Option Writeback) :
    s.sameButPlaced (s.setCache { s.cache with writeback := w }) := rfl

theorem sameButPlaced_setBulk (b : Option BulkOp) : s.sameButPlaced (s.setBulk b) := rfl

theorem markPlaced_sameButPlaced (p : Purpose) : s.sameButPlaced (markPlaced p s) := by
  cases p with
  | passThrough =>
    unfold markPlaced
    generalize s.inHand = o
    cases o with
    | none => exact sameButPlaced_self
    | some h =>
      cases h with
      | through => exact sameButPlaced_setInHand _
      | _ => exact sameButPlaced_self
  | darkFetch row block second =>
    unfold markPlaced setFetch
    generalize s.inHand = o
    cases o with
    | none => exact sameButPlaced_self
    | some h =>
      cases h with
      | capture => exact sameButPlaced_setInHand _
      | _ => exact sameButPlaced_self
  | droppedFill => exact sameButPlaced_self
  | fill => exact sameButPlaced_setFill _
  | evict | flush => exact sameButPlaced_setWriteback _
  | _ => exact sameButPlaced_setBulk _

theorem setBulk_place {b : BulkOp} (h : s.bulk = some b) : (s.setBulk (s.bulk.map BulkOp.place)).setArb a =
    { s with arb := a, bulk := some b.place } := by
  rw [h]
  rfl

theorem setWriteback_placed {w : Writeback} (h : s.cache.writeback = some w) :
    (s.setCache { s.cache with writeback := s.cache.writeback.map fun w => { w with placed := w.placed + 1 } }).setArb a =
      { s with arb := a, cache := { s.cache with writeback := some { w with placed := w.placed + 1 } } } := by
  rw [h]
  rfl

/-- The requester whose transaction is placed goes on to its next (R176). -/
theorem markPlaced_advances (hp : p ≠ .droppedFill) : s.advances ((markPlaced p s).setArb a) p := by
  cases p with
  | passThrough =>
    intro r h
    unfold markPlaced
    rw [h]
    rfl
  | darkFetch row block second =>
    intro cap h
    unfold markPlaced setFetch
    rw [h]
    rfl
  | fill part =>
    intro f h
    unfold markPlaced
    rw [h]
    rfl
  | droppedFill => exact hp rfl
  | evict | flush => exact fun w h => setWriteback_placed h
  | contextWrite | contextRead | recordRead => exact fun _ _ _ _ _ h => setBulk_place h
  | planeWrite => exact fun _ _ _ _ _ h => setBulk_place h
  | libraryWrite => exact fun _ _ _ h => setBulk_place h
  | libraryRead => exact fun _ _ h => setBulk_place h

end Grant

/-- Settles O45: what each requester presents, then the grant by order and pass counts, or none. -/
theorem grantFollowsOrderAndPassCounts : Obligations.GrantFollowsOrderAndPassCounts := by
  intro s notWanted accAddr
  refine ⟨⟨fun r h => presents_through h, presents_through_none⟩, ⟨?_, ?_⟩, ⟨?_, ?_⟩, ⟨?_, ?_⟩,
    ⟨?_, ?_, ?_, ?_, ?_, ?_, ?_, ?_⟩, fun h => exec_mLinkGrant (grant_none h), ?_⟩
  · intro cap before b after f hin hblocks hbefore hf
    have hcap : s.blocksInHand = before ++ b :: after := by rw [State.blocksInHand, hin]; exact hblocks
    have hnone (c : Block) (hc : c ∈ before) : c.wantedFetch = none :=
      wantedFetch_none (hbefore c hc).1 (hbefore c hc).2
    exact ⟨fun ha => presents_darkFetch hcap hnone (wantedFetch_first ha hf),
      fun ha hb => presents_darkFetch hcap hnone (wantedFetch_second ha hb hf)⟩
  · intro h
    rw [presentsFetch_eq, List.findSome?_eq_none_iff]
    exact fun b hb => wantedFetch_none (h b hb).1 (h b hb).2
  · intro f hf hlt
    exact (presents_fill hf).trans (if_pos hlt)
  · intro h
    cases hf : s.cache.fill with
    | none => exact presents_fill_none hf
    | some f => exact (presents_fill hf).trans (if_neg (Nat.not_lt.mpr (h f hf)))
  · intro w x hw hx hlt
    exact ⟨_, (presents_writeback hw hx).trans (if_pos hlt), chunkBeats_carry_of fun b hb => x.part_byte w.placed hb⟩
  · intro h
    cases hw : s.cache.writeback with
    | none => exact presents_writeback_none (.inl hw)
    | some w =>
      cases hx : s.cache.sector w.sector with
      | none => exact presents_writeback_none (.inr ⟨w, hw, hx⟩)
      | some x => exact (presents_writeback hw hx).trans (if_neg (Nat.not_lt.mpr (h w hw)))
  · intro h
    show s.bulk.bind _ = none
    rw [h]
    rfl
  · intro base parts lost step h
    exact presents_bulk h
  · intro base parts lost step h
    exact ⟨_, presents_bulk h, chunkBeats_carry_of fun b hb => contextStepPart_byte parts step hb⟩
  · intro base placed ended failed parts h
    exact presents_bulk h
  · intro job placed ended failed parts h
    exact presents_bulk h
  · intro job plane placed ended failed h
    refine ⟨fun x hx hp => ⟨chunkBeats (plane[placed]?.getD 0), ?_, chunkBeats_carry _⟩,
      fun hp => (presents_bulk h).trans (if_neg hp)⟩
    refine (presents_bulk h).trans ((if_pos hp).trans ?_)
    rw [State.planeAddr, hx]
    rfl
  · intro base image placed h
    refine ⟨?_, ?_⟩
    · rintro rfl
      exact presents_bulk h
    · rintro rfl
      exact ⟨_, presents_bulk h, chunkBeats_carry _⟩
  · intro base placed h
    exact presents_bulk h
  · intro hlow hlen before after r p txn hl hp h
    have hsome : (s.presents r).isSome = true := by rw [hp]; rfl
    have hdrop : p ≠ .droppedFill := by
      rintro rfl
      have := noDroppedFill_presents (s := s) r
      rw [hp] at this
      cases this
    have hsame : s.sameButPlaced (markPlaced p s) := markPlaced_sameButPlaced p
    refine ⟨_, exec_mLinkGrant (grant_some hlow hlen (grantee_eq hl hsome h) hp), rfl, fun q => ?_,
      hsame.keeps (markPlaced_advances hdrop)⟩
    refine (passCounts_of_make _ q).trans (if_congr Iff.rfl rfl ?_)
    cases s.presents q <;> rfl

end Sys2Proof.Machine
end
